-- ==== Sys2Proof/Word.lean ====
section
/-! DEFINITION. The words of the block: bytes, VRAM offsets, CG addresses and the three-valued pixel
(spec/00_scope.md R8, R9). -/

namespace Sys2Proof

/-- A byte (R8). -/
abbrev Byte := BitVec 8

/-- A VRAM offset, 0 to 0x7FFF (R8, R51). -/
abbrev Offset := BitVec 15

/-- A character generator address (R8, R85). -/
abbrev CgAddr := BitVec 12

/-- The pixel alphabet BG, FG_LO, FG_HI (R9; the spec's own decision D4). -/
inductive Pixel where
  | bg
  | fgLo
  | fgHi
deriving DecidableEq, Repr, Inhabited

end Sys2Proof
end

