-- ==== Sys2Proof/Config.lean ====
section
/-! DEFINITION. What is fixed for one machine: the dimensions of spec/00_scope.md R5, the open parameters
of R6 (opaque: no proof can see their value), and the free values that a reset draws (R270). -/

namespace Sys2Proof

/-- VISIBLE_ROWS (R5). -/
abbrev Config.visibleRows : Nat := 27

/-- ROW_SLOT_SKIP = TOTAL_ROW_SLOTS - VISIBLE_ROWS = 81 - 27 (R5). -/
abbrev Config.rowSlotSkip : Nat := 54

/-- ROW_SLOT_BYTES (R5). -/
abbrev Config.rowSlotBytes : Nat := 4

/-- SCANLINES (R5). -/
abbrev Config.scanlines : Nat := 13

/-- FINAL_SCANLINE (R5, R152). -/
abbrev Config.finalScanline : Nat := 12

/-- COLUMNS (R5). -/
abbrev Config.columns : Nat := 80

/-- CELL_BYTES (R5). -/
abbrev Config.cellBytes : Nat := 2

/-- CELL_WIDTH (R5). -/
abbrev Config.cellWidth : Nat := 9

/-- FB_WIDTH (R5). -/
abbrev Config.fbWidth : Nat := 720

/-- FB_HEIGHT (R5). -/
abbrev Config.fbHeight : Nat := 351

/-- VRAM_SIZE, also the wrap modulus (R5, R52). -/
abbrev Config.vramSize : Nat := 0x8000

/-- VRAM_LOGICAL_BASE (R5, R51). -/
abbrev Config.vramLogicalBase : Nat := 0x8000

/-- The bytes a 12-bit CG address reaches (R110). -/
abbrev Config.cgSize : Nat := 4096

/-- CG_BANK_OFFSET (R5, R157). -/
abbrev Config.cgBankOffset : CgAddr := 0x800#12

/-- The open parameter TABLE_BASE (R6, D3): the reset value of the strap. DESIGN CHOICE, log entry 4, safe. -/
opaque Config.tableBase : Offset

/-- The open parameter CGROM (R6, D6): the reset contents of the character generator. DESIGN CHOICE,
log entry 5, safe. -/
opaque Config.cgrom : CgAddr → Byte

/-- The open parameter PALETTE (R6, D4): what a pixel looks like. The spec gives no type for an
intensity; a natural number here. DESIGN CHOICE, log entry 6, safe. -/
opaque Config.palette : Pixel → Nat

/-- The value `row` takes at the n-th reset of a run, any value in range (R40, R270, I6). Log entry 15. -/
opaque Config.freeRow : Nat → Fin 27

/-- The value `scan` takes at the n-th reset of a run (R40, R270, I6). Log entry 15. -/
opaque Config.freeScan : Nat → Fin 13

/-- The value `col` takes at the n-th reset of a run (R40, R270, I6). Log entry 15. -/
opaque Config.freeCol : Nat → Fin 80

/-- The value `row_start` takes at the n-th reset of a run (R40, R270, I6). Log entry 15. -/
opaque Config.freeRowStart : Nat → Offset

/-- The value `ptr_hi` takes at the n-th reset of a run (R40, R270, I6). Log entry 15. -/
opaque Config.freePtrHi : Nat → Byte

/-- The value `attr_l` takes at the n-th reset of a run (R40, R270, I6). Log entry 15. -/
opaque Config.freeAttr : Nat → Byte

/-- The pixel at a framebuffer position after the n-th reset of a run (R270, R273, I7, I8). Log entry 15. -/
opaque Config.freePixel : Nat → Nat → Pixel

/-- What a VRAM byte nothing has written reads as. DESIGN CHOICE, log entry 3, unsafe (R34 leaves it
to the host; spec/95_test_vectors.md part 3 starts its programs so). -/
abbrev Config.vramUnlisted : Byte := 0x00#8

/-- What an unlisted CG ROM byte reads as: only a way to write the contents down, since reset lists
every byte of the parameter that differs from it. DESIGN CHOICE, log entry 5, safe. -/
abbrev Config.cgUnlisted : Byte := 0xFF#8

/-- What a framebuffer position nothing has written reads as. DESIGN CHOICE, log entry 2, unsafe
(R36 leaves it unspecified). -/
abbrev Config.fbUnlisted : Pixel := .bg

end Sys2Proof
end

