-- ==== Sys2Proof/Syntax.lean ====
section
/-! DEFINITION. The operations of spec/opcode_table.json, one constructor a row (spec/30_encoding.md R101),
and the sites at which their words stand. -/

namespace Sys2Proof

/-- The eight functions that a bit of an ATTR8 byte selects (R82). -/
inductive AttrFn where
  | altfont
  | dim
  | conceal
  | rsvd3
  | underline
  | reverse
  | rsvd6
  | rsvd7
deriving DecidableEq, Repr

/-- Where a unit of the block finds the word it decodes. The formats of R80 share no opcode space: a
word is an FSM3 code because it stands in the `state` register, an ATTR8 byte because it stands in
`attr_l`, and so on. DESIGN CHOICE, log entry 8, safe. -/
inductive Site where
  /-- the `state` register: FSM3 (R89) -/
  | sequencer
  /-- the frame command: FC.RENDER_FRAME has no bit pattern (R200) -/
  | frameCommand
  /-- the row index the resolver is given (R130) -/
  | resolver
  /-- the attribute byte, for the whole of AP.PROCESS: ATTR8 (R82) -/
  | attrByte
  /-- the attribute byte, for one bit's function: ATTR8 (R82) -/
  | attrBit (f : AttrFn)
  /-- the CG ROM's address: CGADDR12 (R85) -/
  | cgAddress
  /-- the glyph lookup's operands: CGADDR12 (R85, R180) -/
  | lookup
  /-- the pattern given to pixel_expander: PATTERN8 (R87) -/
  | expander
deriving DecidableEq, Repr

/-- The operations of the block. -/
inductive Instr where
  /-- CGR.READ, CGADDR12 (R111) -/
  | cgrRead (bank : BitVec 1) (glyph : BitVec 7) (line : BitVec 4)
  /-- RPR.RESOLVE: y is the visible row index; its ROWPTR16 word stands in VRAM (R130; log entry 11) -/
  | rprResolve (y : BitVec 5)
  /-- AP.PROCESS, ATTR8 (R150) -/
  | apProcess (attr : Byte)
  /-- AP.ALTFONT, ATTR8 bit 0 (R157) -/
  | apAltfont (attr : Byte)
  /-- AP.DIM, ATTR8 bit 1 (R154) -/
  | apDim (attr : Byte)
  /-- AP.CONCEAL, ATTR8 bit 2 (R155) -/
  | apConceal (attr : Byte)
  /-- AP.RSVD3, ATTR8 bit 3 (R158) -/
  | apRsvd3 (attr : Byte)
  /-- AP.UNDERLINE, ATTR8 bit 4 (R152) -/
  | apUnderline (attr : Byte)
  /-- AP.REVERSE, ATTR8 bit 5 (R156) -/
  | apReverse (attr : Byte)
  /-- AP.RSVD6, ATTR8 bit 6 (R158) -/
  | apRsvd6 (attr : Byte)
  /-- AP.RSVD7, ATTR8 bit 7 (R158) -/
  | apRsvd7 (attr : Byte)
  /-- GR.LOOKUP: code, bank, scan as R180 names them -/
  | grLookup (code : Byte) (bank : BitVec 1) (scan : BitVec 4)
  /-- GR.EXPAND, PATTERN8 (R182) -/
  | grExpand (p : Byte)
  /-- FC.IDLE, FSM3 0b000 (R204) -/
  | fcIdle
  /-- FC.ROW_HI, FSM3 0b001 (R205) -/
  | fcRowHi
  /-- FC.ROW_LO, FSM3 0b010 (R206) -/
  | fcRowLo
  /-- FC.CELL_ATTR, FSM3 0b011 (R207) -/
  | fcCellAttr
  /-- FC.CELL_CODE, FSM3 0b100 (R208) -/
  | fcCellCode
  /-- FC.RENDER_FRAME (R200) -/
  | fcRenderFrame
deriving DecidableEq, Repr

end Sys2Proof
end

