-- ==== Sys2Proof/WellFormed.lean ====
section
/-! DEFINITION. The operand conditions of the operations: an AP bit function's byte has the bit of its
mask and match (spec/opcode_table.json), and RPR.RESOLVE's row index is 0 to 26 (R130). -/

namespace Sys2Proof

/-- The attribute bit that selects a function (R82). -/
def AttrFn.bit : AttrFn → Nat
  | .altfont => 0
  | .dim => 1
  | .conceal => 2
  | .rsvd3 => 3
  | .underline => 4
  | .reverse => 5
  | .rsvd6 => 6
  | .rsvd7 => 7

/-- The byte has the bit its function's row demands: mask and match of spec/opcode_table.json. -/
def AttrFn.selectedBy (f : AttrFn) (attr : Byte) : Bool :=
  attr.getLsbD f.bit

/-- The operands an encoding can carry. -/
def Instr.wellFormed : Instr → Bool
  | .cgrRead _ _ _ => true
  | .rprResolve y => decide (y.toNat < 27)
  | .apProcess _ => true
  | .apAltfont attr => AttrFn.altfont.selectedBy attr
  | .apDim attr => AttrFn.dim.selectedBy attr
  | .apConceal attr => AttrFn.conceal.selectedBy attr
  | .apRsvd3 attr => AttrFn.rsvd3.selectedBy attr
  | .apUnderline attr => AttrFn.underline.selectedBy attr
  | .apReverse attr => AttrFn.reverse.selectedBy attr
  | .apRsvd6 attr => AttrFn.rsvd6.selectedBy attr
  | .apRsvd7 attr => AttrFn.rsvd7.selectedBy attr
  | .grLookup _ _ _ => true
  | .grExpand _ => true
  | .fcIdle => true
  | .fcRowHi => true
  | .fcRowLo => true
  | .fcCellAttr => true
  | .fcCellCode => true
  | .fcRenderFrame => true

end Sys2Proof
end

