-- ==== Sys2Proof/Decode.lean ====
section
/-! DEFINITION. The formats of spec/30_encoding.md R80 to R91 and the operation decoder and encoder.
Operation words are 16 bits wide; a format narrower than that fills the low bits, and the decoder rejects
by name a word with a bit above its format. -/

namespace Sys2Proof

/-! ### FSM3 (R89) -/

/-- FSM3 code of IDLE (R89). -/
def fsmIdle : BitVec 3 := 0b000#3

/-- FSM3 code of ROW_HI (R89). -/
def fsmRowHi : BitVec 3 := 0b001#3

/-- FSM3 code of ROW_LO (R89). -/
def fsmRowLo : BitVec 3 := 0b010#3

/-- FSM3 code of CELL_ATTR (R89). -/
def fsmCellAttr : BitVec 3 := 0b011#3

/-- FSM3 code of CELL_CODE (R89). -/
def fsmCellCode : BitVec 3 := 0b100#3

/-! ### ROWPTR16 (R84), CGADDR12 (R85) -/

/-- ROWPTR16: byte0 is the high byte (R53, R90). -/
def rowPointer (byte0 byte1 : Byte) : BitVec 16 :=
  (byte0.setWidth 16 <<< 8) + byte1.setWidth 16

/-- CGADDR12 fields bank, glyph, line (R85). -/
def cgAddrOfFields (bank : BitVec 1) (glyph : BitVec 7) (line : BitVec 4) : CgAddr :=
  bank ++ glyph ++ line

/-! ### The operation decoder -/

/-- Why a word stands for no operation at its site. -/
inductive DecodeError where
  /-- FSM3 codes 0b101 to 0b111 (R97, I13) -/
  | unreachableFsmCode
  /-- a row index above 26 (R130) -/
  | rowOutOfRange
  /-- an AP bit function whose attribute bit is clear (mask and match of the table) -/
  | functionNotSelected
  /-- a bit set above the format's width -/
  | wordTooWide
deriving DecidableEq, Repr

/-- How many bits of an operation word each site's format has. The lookup's word is CGADDR12 with the
code byte's bit 7 in bit 12 above it (log entry 12). -/
def Site.width : Site → Nat
  | .sequencer => 3
  | .frameCommand => 0
  | .resolver => 5
  | .attrByte => 8
  | .attrBit _ => 8
  | .cgAddress => 12
  | .lookup => 13
  | .expander => 8

/-- The operation an FSM3 code selects (R89). -/
def decodeFsm (code : BitVec 3) : Except DecodeError Instr :=
  if code = fsmIdle then .ok .fcIdle
  else if code = fsmRowHi then .ok .fcRowHi
  else if code = fsmRowLo then .ok .fcRowLo
  else if code = fsmCellAttr then .ok .fcCellAttr
  else if code = fsmCellCode then .ok .fcCellCode
  else .error .unreachableFsmCode

/-- An AP bit function with its attribute byte. -/
def attrBitInstr : AttrFn → Byte → Instr
  | .altfont, attr => .apAltfont attr
  | .dim, attr => .apDim attr
  | .conceal, attr => .apConceal attr
  | .rsvd3, attr => .apRsvd3 attr
  | .underline, attr => .apUnderline attr
  | .reverse, attr => .apReverse attr
  | .rsvd6, attr => .apRsvd6 attr
  | .rsvd7, attr => .apRsvd7 attr

/-- The fields of a word that fits its site's format. -/
def decodeFields (site : Site) (w : BitVec 16) : Except DecodeError Instr :=
  match site with
  | .sequencer => decodeFsm (w.extractLsb' 0 3)
  | .frameCommand => .ok .fcRenderFrame
  | .resolver =>
    if (w.extractLsb' 0 5).toNat < 27 then .ok (.rprResolve (w.extractLsb' 0 5))
    else .error .rowOutOfRange
  | .attrByte => .ok (.apProcess (w.extractLsb' 0 8))
  | .attrBit f =>
    if f.selectedBy (w.extractLsb' 0 8) then .ok (attrBitInstr f (w.extractLsb' 0 8))
    else .error .functionNotSelected
  | .cgAddress => .ok (.cgrRead (w.extractLsb' 11 1) (w.extractLsb' 4 7) (w.extractLsb' 0 4))
  | .lookup =>
    .ok (.grLookup (w.extractLsb' 12 1 ++ w.extractLsb' 4 7) (w.extractLsb' 11 1) (w.extractLsb' 0 4))
  | .expander => .ok (.grExpand (w.extractLsb' 0 8))

/-- The operation that a word standing at a site selects. Total: every word is an operation or is
rejected by name. -/
def decode (site : Site) (w : BitVec 16) : Except DecodeError Instr :=
  if w.toNat < 2 ^ site.width then decodeFields site w else .error .wordTooWide

/-! ### The encoder -/

/-- The site and the word of an operation, from the formats R82, R85, R87, R89. -/
def encode : Instr → Site × BitVec 16
  | .cgrRead bank glyph line => (.cgAddress, (bank ++ glyph ++ line).setWidth 16)
  | .rprResolve y => (.resolver, y.setWidth 16)
  | .apProcess attr => (.attrByte, attr.setWidth 16)
  | .apAltfont attr => (.attrBit .altfont, attr.setWidth 16)
  | .apDim attr => (.attrBit .dim, attr.setWidth 16)
  | .apConceal attr => (.attrBit .conceal, attr.setWidth 16)
  | .apRsvd3 attr => (.attrBit .rsvd3, attr.setWidth 16)
  | .apUnderline attr => (.attrBit .underline, attr.setWidth 16)
  | .apReverse attr => (.attrBit .reverse, attr.setWidth 16)
  | .apRsvd6 attr => (.attrBit .rsvd6, attr.setWidth 16)
  | .apRsvd7 attr => (.attrBit .rsvd7, attr.setWidth 16)
  | .grLookup code bank scan =>
    (.lookup, (code.extractLsb' 7 1 ++ bank ++ code.extractLsb' 0 7 ++ scan).setWidth 16)
  | .grExpand p => (.expander, p.setWidth 16)
  | .fcIdle => (.sequencer, fsmIdle.setWidth 16)
  | .fcRowHi => (.sequencer, fsmRowHi.setWidth 16)
  | .fcRowLo => (.sequencer, fsmRowLo.setWidth 16)
  | .fcCellAttr => (.sequencer, fsmCellAttr.setWidth 16)
  | .fcCellCode => (.sequencer, fsmCellCode.setWidth 16)
  | .fcRenderFrame => (.frameCommand, 0#16)

/-! ### Words of spec/opcode_table.json

A bare word of the table names no site, and the rows' formats overlap (0x10 is an AP.UNDERLINE byte, an
AP.PROCESS byte and a PATTERN8). One site is chosen for each word. DESIGN CHOICE, log entry 9, safe. -/

/-- The site at which a bare table word of nbits bits is presented. -/
def tableSite (nbits w : Nat) : Site :=
  if nbits = 0 then .frameCommand
  else if nbits ≤ 8 then
    if w < 5 then .sequencer
    else if w = 0x08 then .attrBit .rsvd3
    else if w = 0x10 then .attrBit .underline
    else if w = 0x20 then .attrBit .reverse
    else if w = 0x40 then .attrBit .rsvd6
    else if w = 0x80 then .attrBit .rsvd7
    else .attrByte
  else if w < 0x1000 then .cgAddress
  else .resolver

/-- The operation word a bare table word becomes. A ROWPTR16 word is no operand: it is stored in the
row's slot of VRAM, and the resolver is given the row index of reset, 0 (log entry 11). -/
def tableOperand (site : Site) (w : Nat) : BitVec 16 :=
  match site with
  | .resolver => 0#16
  | _ => BitVec.ofNat 16 w

/-- The operation that a bare word of the opcode table decodes to. -/
def decodeTableWord (nbits w : Nat) : Option Instr :=
  (decode (tableSite nbits w) (tableOperand (tableSite nbits w) w)).toOption

end Sys2Proof
end

