-- ==== Sys2Proof/Machine/Memory.lean ====
section
/-! DEFINITION. One sparse memory for the block's three arrays (VRAM, CG ROM, framebuffer): a list of
(address, value) pairs in canonical form, addresses strictly rising and no entry equal to what an unlisted
address reads as. -/

namespace Sys2Proof.Machine

variable {α : Type} [DecidableEq α]

/-- The value at an address; `unlisted` is what an address with no entry reads as. -/
def Memory.read (unlisted : α) : List (Nat × α) → Nat → α
  | [], _ => unlisted
  | (b, u) :: m, a => if a = b then u else Memory.read unlisted m a

/-- Put a value at an address, keeping the addresses in rising order. -/
def Memory.insert : List (Nat × α) → Nat → α → List (Nat × α)
  | [], a, v => [(a, v)]
  | (b, u) :: m, a, v =>
    if a < b then (a, v) :: (b, u) :: m
    else if a = b then (a, v) :: m
    else (b, u) :: Memory.insert m a v

/-- Drop the entries of an address. -/
def Memory.erase : List (Nat × α) → Nat → List (Nat × α)
  | [], _ => []
  | (b, u) :: m, a => if a = b then Memory.erase m a else (b, u) :: Memory.erase m a

/-- Store a value. Storing what an unlisted address reads as removes the entry. -/
def Memory.write (unlisted : α) (m : List (Nat × α)) (a : Nat) (v : α) : List (Nat × α) :=
  if v = unlisted then Memory.erase m a else Memory.insert m a v

/-- The canonical form from an address on: addresses rising, inside `size`, none at its unlisted value. -/
def Memory.wfFrom (unlisted : α) (size : Nat) : Nat → List (Nat × α) → Bool
  | _, [] => true
  | low, (a, v) :: m =>
    decide (low ≤ a) && decide (a < size) && decide (v ≠ unlisted) && Memory.wfFrom unlisted size (a + 1) m

/-- The canonical form of a memory of `size` addresses. -/
def Memory.wf (unlisted : α) (size : Nat) (m : List (Nat × α)) : Bool :=
  Memory.wfFrom unlisted size 0 m

/-- The memory that holds `f a` at the n addresses from `low` on. -/
def Memory.tabulateFrom (unlisted : α) (f : Nat → α) : Nat → Nat → List (Nat × α)
  | _, 0 => []
  | low, n + 1 =>
    if f low = unlisted then Memory.tabulateFrom unlisted f (low + 1) n
    else (low, f low) :: Memory.tabulateFrom unlisted f (low + 1) n

/-- The memory of `size` addresses that holds `f a` at each. -/
def Memory.tabulate (unlisted : α) (size : Nat) (f : Nat → α) : List (Nat × α) :=
  Memory.tabulateFrom unlisted f 0 size

end Sys2Proof.Machine
end

