-- ==== Sys2Proof/Machine/State.lean ====
section
/-! DEFINITION. The state of the block and its surroundings (spec/10_state.md R20 to R40), the reasons a
step can stop, and the state after reset (spec/70_reset_and_hazards.md R270). -/

namespace Sys2Proof.Machine

/-- What the host does next (R251). Each step of the machine consumes at most one; when none is left the
host is silent. DESIGN CHOICE, log entry 14. -/
inductive Input where
  /-- let the block take one step with `frame_tick` at this level -/
  | block (tick : Bool)
  /-- write one byte of VRAM, a step of its own between two block steps (R64) -/
  | hostWrite (offset : Offset) (value : Byte)
  /-- assert reset (R273) -/
  | reset
  /-- the model's own: run alone the operation whose word stands at a site (log entry 8) -/
  | operate (site : Site)
deriving DecidableEq, Repr

/-- A framebuffer write of one step: `fb_x`, `fb_y`, `fb_pixels` while `fb_we` is 1 (R37). -/
structure Burst where
  x : BitVec 10
  y : BitVec 9
  pixels : Vector Pixel 9
deriving DecidableEq, Repr

/-- The ports of R37 as the step just taken drove them. `fb_we` is `fbWrite.isSome`. An address
port holds nothing in a step that makes no access. `busy` is computed (R31). Log entry 18. -/
structure Ports where
  /-- `frame_tick`, sampled by the step -/
  frameTick : Bool
  /-- `vram_addr` and `vram_data` of each VRAM read, in order -/
  vramReads : List (Offset × Byte)
  /-- `cg_addr` and `cg_data` -/
  cgRead : Option (CgAddr × Byte)
  /-- `fb_we`, `fb_x`, `fb_y`, `fb_pixels` -/
  fbWrite : Option Burst
  /-- `frame_done` (R31) -/
  frameDone : Bool
deriving DecidableEq, Repr

/-- The per-cell datapath values of R29. R29 does not hold them across steps and no FSM step reads one
that an earlier step left; the model keeps them so that each unit's operation has its operands and its
result in State. DESIGN CHOICE, log entry 7, safe. -/
structure Nets where
  code : Byte
  bankOffset : CgAddr
  cgAddr : CgAddr
  rom : Byte
  pattern : Byte
  fg : Pixel
  bg : Pixel
  pixels : Vector Pixel 9
deriving DecidableEq, Repr

/-- The state (R20). -/
structure State where
  /-- `state`, FSM3 (R22, R89) -/
  state : BitVec 3
  /-- `row` (R23) -/
  row : BitVec 5
  /-- `scan` (R24) -/
  scan : BitVec 4
  /-- `col` (R25) -/
  col : BitVec 7
  /-- `row_start` (R26) -/
  rowStart : Offset
  /-- `ptr_hi` (R27) -/
  ptrHi : Byte
  /-- `attr_l` (R28) -/
  attrL : Byte
  /-- VideoMemory, by VRAM offset (R34) -/
  vram : List Host.Cell
  /-- the character generator ROM, by CG address (R35, R110) -/
  cgrom : List Host.Cell
  /-- the framebuffer: position (x, y) stands at 720*y + x (R36; log entry 23) -/
  fb : List (Nat × Pixel)
  /-- the strap TABLE_BASE (R33, R6) -/
  tableBase : Offset
  /-- the ports of the step just taken (R37) -/
  ports : Ports
  /-- the datapath values (R29) -/
  nets : Nets
  /-- the host's coming actions (R251; log entry 14) -/
  inputs : List Input
  /-- how many times a reset has drawn free values (R270; log entry 15) -/
  draws : Nat
deriving DecidableEq, Repr

/-- Why the machine stops. The block itself raises no exception (R240). -/
inductive Fault where
  /-- raised by FC.CELL_CODE when its row, scanline or column lies outside the 720 x 351 framebuffer,
  which R241 says the block never forms; no reachable state raises it. Safe, log entry 17 -/
  | framebufferOutOfRange
deriving DecidableEq, Repr

/-- What the model gives no meaning to. -/
inductive Refusal where
  /-- raised by an operation with no meaning yet. Safe -/
  | notModelled (mnemonic : String)
  /-- raised by the step when the word at a site stands for no operation: FSM codes 0b101 to 0b111 (I13,
  R242), or a unit asked to run alone on an ill-formed word. Safe, log entries 8 and 16 -/
  | undecodable (reason : DecodeError)
deriving DecidableEq, Repr

/-- No port activity. -/
def Ports.quiet (tick : Bool) : Ports where
  frameTick := tick
  vramReads := []
  cgRead := none
  fbWrite := none
  frameDone := false

/-- The datapath values at reset. DESIGN CHOICE, log entry 7. -/
def Nets.reset : Nets where
  code := 0
  bankOffset := 0
  cgAddr := 0
  rom := 0
  pattern := 0
  fg := .bg
  bg := .bg
  pixels := Vector.replicate 9 .bg

/-- The state after reset (R40, R270): IDLE, not busy, no `frame_done`; CGROM and TABLE_BASE hold their
parameters; what the spec leaves unspecified holds the values that log entries 1, 2, 3 and 7 name. -/
def State.reset : State where
  state := fsmIdle
  row := 0
  scan := 0
  col := 0
  rowStart := 0
  ptrHi := 0
  attrL := 0
  vram := []
  cgrom := Memory.tabulate Config.cgUnlisted Config.cgSize (fun a => Config.cgrom (BitVec.ofNat 12 a))
  fb := []
  tableBase := Config.tableBase
  ports := Ports.quiet false
  nets := Nets.reset
  inputs := []
  draws := 0

end Sys2Proof.Machine
end

