-- ==== Sys2Proof/Machine/Operands.lean ====
section
/-! DEFINITION. The pure functions of the block's datapath: address assembly (spec/30_encoding.md R90 to
R92, spec/20_memory.md R52), the attribute stages (spec/42_attribute_processor.md), the glyph address and
pixel_expander (spec/43_glyph_rasterizer.md), framebuffer coordinates (spec/44_frame_composer_fsm.md R202). -/

namespace Sys2Proof.Machine

/-! ### Addresses -/

/-- vaddr: any integer address result reduced modulo 0x8000 (R9, R52). -/
def vaddr (a : Int) : Offset :=
  BitVec.ofNat 15 (a % (Config.vramSize : Int)).toNat

/-- The address of slot 54 + y of the row pointer table (R83, R90). -/
def slotAddr (tableBase : Offset) (y : Nat) : Int :=
  tableBase.toNat + Config.rowSlotBytes * (Config.rowSlotSkip + y)

/-- The row start of a pointer: (ptr - 0x8000) mod 0x8000 (R84, R133). -/
def rowStartOf (ptr : BitVec 16) : Offset :=
  vaddr ((ptr.toNat : Int) - Config.vramLogicalBase)

/-- The address of a cell's attribute byte (R92, R201); its code byte is at the next one. -/
def cellAddr (rowStart : Offset) (col : Nat) : Int :=
  rowStart.toNat + Config.cellBytes * col

/-! ### Glyph lookup -/

/-- bank_offset (R157, R180). -/
def bankOffsetOf (bank : Bool) : CgAddr :=
  if bank then Config.cgBankOffset else 0#12

/-- The CG address ((code << 4) & 0x7F0) | bank_offset | scan (R91, R181). -/
def glyphAddr (code : Byte) (bankOffset : CgAddr) (scan : BitVec 4) : CgAddr :=
  ((code.setWidth 12 <<< 4) &&& 0x7F0#12) ||| bankOffset ||| scan.setWidth 12

/-! ### The attribute stages, in the order of R150 -/

/-- The scanline on which underline acts (R152). -/
def isFinalScanline (scan : BitVec 4) : Bool :=
  decide (scan.toNat = Config.finalScanline)

/-- Steps 1 and 2: underline_override, else the base inversion (R152, R153). -/
def underlineOverride (attr rom : Byte) (final : Bool) : Byte :=
  if attr.getLsbD 4 && final then 0xFF#8 else ~~~rom

/-- Step 3: dim (R154). -/
def dimForeground (attr : Byte) : Pixel :=
  if attr.getLsbD 1 then .fgLo else .fgHi

/-- The background of every cell (R150, R159). -/
def cellBackground : Pixel := .bg

/-- Step 4: conceal (R155). -/
def concealForeground (attr : Byte) (fore back : Pixel) : Pixel :=
  if attr.getLsbD 2 then back else fore

/-- Step 5: reverse_video_mux (R156). -/
def reverseMux (attr p : Byte) : Byte :=
  if attr.getLsbD 5 then ~~~p else p

/-! ### pixel_expander -/

/-- The nine pixels of a pattern: bit 7 first, then the spacing column (R182, R183). -/
def expandPattern (p : Byte) (fore back : Pixel) : Vector Pixel 9 :=
  #v[if p.getLsbD 7 then fore else back, if p.getLsbD 6 then fore else back, if p.getLsbD 5 then fore else back,
     if p.getLsbD 4 then fore else back, if p.getLsbD 3 then fore else back, if p.getLsbD 2 then fore else back,
     if p.getLsbD 1 then fore else back, if p.getLsbD 0 then fore else back, back]

/-! ### The cell as one function (R185) -/

/-- AttrProcess (R150). -/
def attrProcessFn (attr rom : Byte) (final : Bool) : Byte × Pixel × Pixel :=
  (reverseMux attr (underlineOverride attr rom final),
   concealForeground attr (dimForeground attr) cellBackground,
   cellBackground)

/-- CGRead: the byte of the CG ROM at an address (R111). -/
def cgByte (cgrom : List Host.Cell) (a : CgAddr) : Byte :=
  Memory.read Config.cgUnlisted cgrom a.toNat

/-- GlyphLookup (R180). -/
def glyphLookupFn (cgrom : List Host.Cell) (code : Byte) (bank : Bool) (scan : BitVec 4) : Byte :=
  cgByte cgrom (glyphAddr code (bankOffsetOf bank) scan)

/-- CellPixels (R185). -/
def cellPixels (cgrom : List Host.Cell) (attr code : Byte) (scan : BitVec 4) : Vector Pixel 9 :=
  let rom := glyphLookupFn cgrom code (attr.getLsbD 0) scan
  let out := attrProcessFn attr rom (isFinalScanline scan)
  expandPattern out.1 out.2.1 out.2.2

/-- Every datapath value of a cell on a scanline (R29, R185). -/
def cellNets (cgrom : List Host.Cell) (attr code : Byte) (scan : BitVec 4) : Nets :=
  let rom := glyphLookupFn cgrom code (attr.getLsbD 0) scan
  let out := attrProcessFn attr rom (isFinalScanline scan)
  { code := code
    bankOffset := bankOffsetOf (attr.getLsbD 0)
    cgAddr := glyphAddr code (bankOffsetOf (attr.getLsbD 0)) scan
    rom := rom
    pattern := out.1
    fg := out.2.1
    bg := out.2.2
    pixels := cellPixels cgrom attr code scan }

/-! ### Framebuffer coordinates -/

/-- The x of a cell's first pixel: 9*c (R88, R202). -/
def cellX (col : Nat) : Nat := Config.cellWidth * col

/-- The y of a scanline of a text row: 13*r + s (R88, R202). -/
def cellY (row scan : Nat) : Nat := Config.scanlines * row + scan

/-- Where position (x, y) stands in the list (log entry 23). -/
def fbIndex (x y : Nat) : Nat := Config.fbWidth * y + x

end Sys2Proof.Machine
end

