-- ==== Sys2Proof/Machine/Flags.lean ====
section
/-! DEFINITION. The block's status: it has no flags (spec/10_state.md R32), only `busy` (R31); and the
range test of the cell under the cursor. -/

namespace Sys2Proof.Machine

/-- `busy`: 1 exactly when `state` is not IDLE (R31). -/
def State.busy (s : State) : Bool :=
  decide (s.state ≠ fsmIdle)

/-- The cell under the cursor lies inside the framebuffer (R56, R241). -/
def State.cellInRange (s : State) : Bool :=
  decide (s.col.toNat < Config.columns) &&
    decide (cellY s.row.toNat s.scan.toNat < Config.fbHeight)

end Sys2Proof.Machine
end

