-- ==== Sys2Proof/Machine/Ops.lean ====
section
/-! DEFINITION. The named operations over the memories and registers that the meanings share
(spec/20_memory.md). The block takes no exception and has none to return from (spec/60_exceptions.md R240,
R242, R243), so there is no exception operation. -/

namespace Sys2Proof.Machine

/-! ### VRAM -/

/-- VRead: the byte at an address reduced modulo 0x8000 (R50). -/
def State.vread (s : State) (a : Int) : Byte :=
  Memory.read Config.vramUnlisted s.vram (vaddr a).toNat

/-- A VRAM read on the ports: `vram_addr` and `vram_data` (R37). -/
def State.noteVRead (s : State) (a : Int) : State :=
  { s with ports.vramReads := s.ports.vramReads ++ [(vaddr a, s.vread a)] }

/-- Store one byte of VRAM (R51, R34). Only the host does (R59). -/
def vramStore (vram : List Host.Cell) (o : Offset) (b : Byte) : List Host.Cell :=
  Memory.write Config.vramUnlisted vram o.toNat b

/-- A host write (R64, R251): any byte at any offset. -/
def State.hostWrite (s : State) (o : Offset) (b : Byte) : State :=
  { s with vram := vramStore s.vram o b }

/-! ### The row pointer -/

/-- Resolve(y): the row start that slot 54 + y holds (R130). -/
def State.resolve (s : State) (y : Nat) : Offset :=
  rowStartOf (rowPointer (s.vread (slotAddr s.tableBase y)) (s.vread (slotAddr s.tableBase y + 1)))

/-- The resolver's two reads and its result in `row_start` (R130, R26). -/
def State.resolveRow (s : State) (y : Nat) : State :=
  { (s.noteVRead (slotAddr s.tableBase y)).noteVRead (slotAddr s.tableBase y + 1) with
    rowStart := s.resolve y }

/-! ### The datapath -/

/-- CGRead on the ports and nets (R111, R37). -/
def State.cgRead (s : State) (a : CgAddr) : State :=
  { s with
    nets.cgAddr := a
    nets.rom := cgByte s.cgrom a
    ports.cgRead := some (a, cgByte s.cgrom a) }

/-- The bank offset that the font-bank bit selects (R157). -/
def State.selectBank (s : State) (bank : Bool) : State :=
  { s with nets.bankOffset := bankOffsetOf bank }

/-- GlyphLookup (R180): form the address, read the CG ROM. -/
def State.glyphLookup (s : State) (code : Byte) (bank : Bool) (scan : BitVec 4) : State :=
  (s.selectBank bank).cgRead (glyphAddr code (bankOffsetOf bank) scan)

/-- underline_override or the base inversion, over the ROM byte and the scanline (R152, R153). -/
def State.underlineStage (s : State) (attr : Byte) : State :=
  { s with nets.pattern := underlineOverride attr s.nets.rom (isFinalScanline s.scan) }

/-- The dim stage (R154). -/
def State.dimStage (s : State) (attr : Byte) : State :=
  { s with nets.fg := dimForeground attr }

/-- bg = BG (R150 step 3, R159). -/
def State.backgroundStage (s : State) : State :=
  { s with nets.bg := cellBackground }

/-- The conceal stage (R155). -/
def State.concealStage (s : State) (attr : Byte) : State :=
  { s with nets.fg := concealForeground attr s.nets.fg s.nets.bg }

/-- The reverse_video_mux stage (R156). -/
def State.reverseStage (s : State) (attr : Byte) : State :=
  { s with nets.pattern := reverseMux attr s.nets.pattern }

/-- AttrProcess over the ROM byte and the scanline (R150); the stages above in its order
(Laws/Ops.lean, attrProcess_eq_stages). -/
def State.attrProcess (s : State) (attr : Byte) : State :=
  { s with
    nets.pattern := (attrProcessFn attr s.nets.rom (isFinalScanline s.scan)).1
    nets.fg := (attrProcessFn attr s.nets.rom (isFinalScanline s.scan)).2.1
    nets.bg := (attrProcessFn attr s.nets.rom (isFinalScanline s.scan)).2.2 }

/-- pixel_expander (R182). -/
def State.expand (s : State) (p : Byte) : State :=
  { s with nets.pixels := expandPattern p s.nets.fg s.nets.bg }

/-! ### The framebuffer -/

/-- The pixel at a position (R36). -/
def fbRead (fb : List (Nat × Pixel)) (x y : Nat) : Pixel :=
  Memory.read Config.fbUnlisted fb (fbIndex x y)

/-- FBWrite(x, y, p) (R56). -/
def fbSet (fb : List (Nat × Pixel)) (x y : Nat) (p : Pixel) : List (Nat × Pixel) :=
  Memory.write Config.fbUnlisted fb (fbIndex x y) p

/-- The pixels of a list written from position (x, y) rightwards. -/
def fbRun (fb : List (Nat × Pixel)) (x y : Nat) : List Pixel → List (Nat × Pixel)
  | [] => fb
  | p :: ps => fbRun (fbSet fb x y p) (x + 1) y ps

/-- The nine FBWrites of one cell on one scanline, left to right (R200, R208). -/
def fbCell (fb : List (Nat × Pixel)) (row scan col : Nat) (px : Vector Pixel 9) : List (Nat × Pixel) :=
  fbRun fb (cellX col) (cellY row scan) px.toList

/-- What a host read of the framebuffer returns (R69): nothing outside 720 x 351. Log entry 26. -/
def State.hostReadFb (s : State) (x y : Nat) : Option Pixel :=
  if x < Config.fbWidth ∧ y < Config.fbHeight then some (fbRead s.fb x y) else none

/-- The display intensity at a position, through the parameter PALETTE (R6). -/
def State.shown (s : State) (x y : Nat) : Option Nat :=
  (s.hostReadFb x y).map Config.palette

/-! ### The sequencer -/

/-- advance, at the end of CELL_CODE: columns fastest, then scanlines, then rows (R209). -/
def State.advance (s : State) : State :=
  if s.col.toNat < Config.columns - 1 then
    { s with col := s.col + 1, state := fsmCellAttr }
  else if s.scan.toNat < Config.finalScanline then
    { s with col := 0, scan := s.scan + 1, state := fsmCellAttr }
  else if s.row.toNat < Config.visibleRows - 1 then
    { s with row := s.row + 1, state := fsmRowHi }
  else
    { s with state := fsmIdle, ports.frameDone := true }

/-- The cell under the cursor read, drawn and written: the code byte on the VRAM port, the CG ROM byte on
its port, the nine pixels in the framebuffer and on the write port (R208, R37). The nets hold what GR.LOOKUP,
AP.PROCESS and GR.EXPAND compute on the way (Laws/Ops.lean, drawCell_eq_units). -/
def State.drawCell (s : State) : State :=
  let a := cellAddr s.rowStart s.col.toNat + 1
  let cell := cellNets s.cgrom s.attrL (s.vread a) s.scan
  { s with
    nets := cell
    ports.vramReads := s.ports.vramReads ++ [(vaddr a, s.vread a)]
    ports.cgRead := some (cell.cgAddr, cell.rom)
    ports.fbWrite := some
      { x := BitVec.ofNat 10 (cellX s.col.toNat)
        y := BitVec.ofNat 9 (cellY s.row.toNat s.scan.toNat)
        pixels := cell.pixels }
    fb := fbCell s.fb s.row.toNat s.scan.toNat s.col.toNat cell.pixels }

/-- The work of CELL_CODE on a cell inside the framebuffer (R208, R209). -/
def State.cellCode (s : State) : State :=
  s.drawCell.advance

/-! ### The frame as a function (R200) -/

/-- One cell of RenderFrame (R200). -/
def State.renderCell (s : State) (rs : Offset) (r sc : Nat) (fb : List (Nat × Pixel)) (c : Nat) :
    List (Nat × Pixel) :=
  fbCell fb r sc c
    (cellPixels s.cgrom (s.vread (cellAddr rs c)) (s.vread (cellAddr rs c + 1)) (BitVec.ofNat 4 sc))

/-- One scanline of RenderFrame (R200). -/
def State.renderScan (s : State) (rs : Offset) (r : Nat) (fb : List (Nat × Pixel)) (sc : Nat) :
    List (Nat × Pixel) :=
  (List.range Config.columns).foldl (s.renderCell rs r sc) fb

/-- One text row of RenderFrame: resolved once, then its scanlines (R200, R134). -/
def State.renderRow (s : State) (fb : List (Nat × Pixel)) (r : Nat) : List (Nat × Pixel) :=
  (List.range Config.scanlines).foldl (s.renderScan (s.resolve r) r) fb

/-- RenderFrame (R200): the framebuffer after a frame of this VRAM, CGROM and TABLE_BASE. -/
def State.renderFrame (s : State) : List (Nat × Pixel) :=
  (List.range Config.visibleRows).foldl s.renderRow s.fb

/-- The registers as FC.CELL_CODE of the last cell finds them, (26, 12, 79) (R30, R205 to R209). -/
def State.atLastCell (s : State) : State :=
  { s with
    state := fsmCellCode
    row := 26
    scan := 12
    col := 79
    rowStart := s.resolve 26
    ptrHi := s.vread (slotAddr s.tableBase 26)
    attrL := s.vread (cellAddr (s.resolve 26) 79) }

/-- A whole frame in one step: the framebuffer is RenderFrame's, everything else is as the last cell's step
leaves it (R200, R210, R212). DESIGN CHOICE, log entry 13, safe. -/
def State.frame (s : State) : State :=
  { s.atLastCell.cellCode with fb := s.renderFrame }

/-! ### Reset and the boundary of a step -/

/-- Reset asserted during a run: the state of R270 with every unspecified value drawn afresh; VRAM, CGROM
and TABLE_BASE stay (R273). Log entry 15. -/
def State.assertReset (s : State) : State :=
  { s with
    state := fsmIdle
    row := BitVec.ofNat 5 (Config.freeRow s.draws).val
    scan := BitVec.ofNat 4 (Config.freeScan s.draws).val
    col := BitVec.ofNat 7 (Config.freeCol s.draws).val
    rowStart := Config.freeRowStart s.draws
    ptrHi := Config.freePtrHi s.draws
    attrL := Config.freeAttr s.draws
    fb := Memory.tabulate Config.fbUnlisted (Config.fbWidth * Config.fbHeight)
      (Config.freePixel s.draws)
    draws := s.draws + 1 }

/-- The start of a step: one input consumed, `frame_tick` sampled, every output strobe low (R31, R37).
Log entry 18. -/
def State.beginStep (s : State) (tick : Bool) (rest : List Input) : State :=
  { s with ports := Ports.quiet tick, inputs := rest }

end Sys2Proof.Machine
end

