-- ==== Sys2Proof/Machine/Attribute.lean ====
section
/-! DEFINITION. attribute_processor: AP.PROCESS and its bit functions
(spec/42_attribute_processor.md). The ROM byte, the pattern and the foreground they work on stand on the
nets; the scanline is the `scan` register. -/

namespace Sys2Proof.Machine

/-- AP.PROCESS (R150): pattern, foreground and background of a cell on a scanline. -/
def execApProcess (attr : Byte) (s : State) : Host.Outcome State Fault Refusal :=
  .next (s.attrProcess attr)

/-- AP.ALTFONT (R157): bank_offset. -/
def execApAltfont (attr : Byte) (s : State) : Host.Outcome State Fault Refusal :=
  .next (s.selectBank (attr.getLsbD 0))

/-- AP.DIM (R154): the foreground's intensity. -/
def execApDim (attr : Byte) (s : State) : Host.Outcome State Fault Refusal :=
  .next (s.dimStage attr)

/-- AP.CONCEAL (R155): the foreground becomes the background. -/
def execApConceal (attr : Byte) (s : State) : Host.Outcome State Fault Refusal :=
  .next (s.concealStage attr)

/-- AP.RSVD3 (R158): bit 3 is ignored. -/
def execApRsvd3 (_attr : Byte) (s : State) : Host.Outcome State Fault Refusal :=
  .next s

/-- AP.UNDERLINE, underline_override (R152), with the base inversion where it does not apply (R153). -/
def execApUnderline (attr : Byte) (s : State) : Host.Outcome State Fault Refusal :=
  .next (s.underlineStage attr)

/-- AP.REVERSE, reverse_video_mux (R156). -/
def execApReverse (attr : Byte) (s : State) : Host.Outcome State Fault Refusal :=
  .next (s.reverseStage attr)

/-- AP.RSVD6 (R158): bit 6 is ignored. -/
def execApRsvd6 (_attr : Byte) (s : State) : Host.Outcome State Fault Refusal :=
  .next s

/-- AP.RSVD7 (R158): bit 7 is ignored. -/
def execApRsvd7 (_attr : Byte) (s : State) : Host.Outcome State Fault Refusal :=
  .next s

end Sys2Proof.Machine
end

