-- ==== Sys2Proof/Machine/CharacterGenerator.lean ====
section
/-! DEFINITION. character_generator_rom: CGR.READ (spec/40_character_generator_rom.md). -/

namespace Sys2Proof.Machine

/-- CGR.READ (R111): the byte at the CG address {bank, glyph, line}. Lines 13 to 15, which the block never
presents, read like any other. -/
def execCgrRead (bank : BitVec 1) (glyph : BitVec 7) (line : BitVec 4) (s : State) :
    Host.Outcome State Fault Refusal :=
  .next (s.cgRead (cgAddrOfFields bank glyph line))

end Sys2Proof.Machine
end

