-- ==== Sys2Proof/Machine/Composer.lean ====
section
/-! DEFINITION. frame_composer_fsm: the five transitions and the whole frame
(spec/44_frame_composer_fsm.md). -/

namespace Sys2Proof.Machine

/-- FC.IDLE (R204): a tick starts a frame at row 0; without one the state stays IDLE. The framebuffer is
not cleared. -/
def execFcIdle (s : State) : Host.Outcome State Fault Refusal :=
  if s.ports.frameTick then .next { s with row := 0, state := fsmRowHi }
  else .next { s with state := fsmIdle }

/-- FC.ROW_HI (R205): the slot's byte0 into `ptr_hi`. -/
def execFcRowHi (s : State) : Host.Outcome State Fault Refusal :=
  .next
    { s.noteVRead (slotAddr s.tableBase s.row.toNat) with
      ptrHi := s.vread (slotAddr s.tableBase s.row.toNat)
      state := fsmRowLo }

/-- FC.ROW_LO (R206): the slot's byte1, the row start, and the cursor at the row's first cell. -/
def execFcRowLo (s : State) : Host.Outcome State Fault Refusal :=
  .next
    { s.noteVRead (slotAddr s.tableBase s.row.toNat + 1) with
      rowStart := rowStartOf (rowPointer s.ptrHi (s.vread (slotAddr s.tableBase s.row.toNat + 1)))
      scan := 0
      col := 0
      state := fsmCellAttr }

/-- FC.CELL_ATTR (R207): the cell's attribute byte into `attr_l`. -/
def execFcCellAttr (s : State) : Host.Outcome State Fault Refusal :=
  .next
    { s.noteVRead (cellAddr s.rowStart s.col.toNat) with
      attrL := s.vread (cellAddr s.rowStart s.col.toNat)
      state := fsmCellCode }

/-- FC.CELL_CODE (R208, R209): code byte, glyph, attributes, nine pixels, advance. A cursor outside the
framebuffer, which no reachable state holds (R241), faults (log entry 17). -/
def execFcCellCode (s : State) : Host.Outcome State Fault Refusal :=
  if s.cellInRange then .next s.cellCode else .fault .framebufferOutOfRange

/-- FC.RENDER_FRAME (R200): a whole frame with no host write during it, started in IDLE; a frame asked for
while busy is ignored (R211). Log entry 13. -/
def execFcRenderFrame (s : State) : Host.Outcome State Fault Refusal :=
  if s.state = fsmIdle then .next s.frame else .next s

end Sys2Proof.Machine
end

