-- ==== Sys2Proof/Machine/Glyph.lean ====
section
/-! DEFINITION. glyph_rasterizer: GR.LOOKUP and GR.EXPAND (spec/43_glyph_rasterizer.md). -/

namespace Sys2Proof.Machine

/-- GR.LOOKUP (R180): the CG ROM byte of a code, a bank and a scanline. Code bit 7 is discarded (R94). -/
def execGrLookup (code : Byte) (bank : BitVec 1) (scan : BitVec 4) (s : State) :
    Host.Outcome State Fault Refusal :=
  .next (s.glyphLookup code (bank.getLsbD 0) scan)

/-- GR.EXPAND, pixel_expander (R182): the nine pixels of a pattern in the nets' foreground and
background. -/
def execGrExpand (p : Byte) (s : State) : Host.Outcome State Fault Refusal :=
  .next (s.expand p)

end Sys2Proof.Machine
end

