-- ==== Sys2Proof/Machine/RowPointer.lean ====
section
/-! DEFINITION. row_pointer_resolver: RPR.RESOLVE (spec/41_row_pointer_resolver.md). -/

namespace Sys2Proof.Machine

/-- RPR.RESOLVE (R130): the two bytes of slot 54 + y, high first, as a pointer, less 0x8000 and wrapped,
into `row_start`. Every pointer is accepted (R135). -/
def execRprResolve (y : BitVec 5) (s : State) : Host.Outcome State Fault Refusal :=
  .next (s.resolveRow y.toNat)

end Sys2Proof.Machine
end

