-- ==== Sys2Proof/Machine/Dispatch.lean ====
section
/-! DEFINITION. The meaning of each operation: one arm per constructor of Instr. -/

namespace Sys2Proof.Machine

/-- What one operation does. -/
def exec (i : Instr) (s : State) : Host.Outcome State Fault Refusal :=
  match i with
  | .cgrRead bank glyph line => Sys2Proof.Machine.execCgrRead bank glyph line s
  | .rprResolve y => Sys2Proof.Machine.execRprResolve y s
  | .apProcess attr => Sys2Proof.Machine.execApProcess attr s
  | .apAltfont attr => Sys2Proof.Machine.execApAltfont attr s
  | .apDim attr => Sys2Proof.Machine.execApDim attr s
  | .apConceal attr => Sys2Proof.Machine.execApConceal attr s
  | .apRsvd3 attr => Sys2Proof.Machine.execApRsvd3 attr s
  | .apUnderline attr => Sys2Proof.Machine.execApUnderline attr s
  | .apReverse attr => Sys2Proof.Machine.execApReverse attr s
  | .apRsvd6 attr => Sys2Proof.Machine.execApRsvd6 attr s
  | .apRsvd7 attr => Sys2Proof.Machine.execApRsvd7 attr s
  | .grLookup code bank scan => Sys2Proof.Machine.execGrLookup code bank scan s
  | .grExpand p => Sys2Proof.Machine.execGrExpand p s
  | .fcIdle => Sys2Proof.Machine.execFcIdle s
  | .fcRowHi => Sys2Proof.Machine.execFcRowHi s
  | .fcRowLo => Sys2Proof.Machine.execFcRowLo s
  | .fcCellAttr => Sys2Proof.Machine.execFcCellAttr s
  | .fcCellCode => Sys2Proof.Machine.execFcCellCode s
  | .fcRenderFrame => Sys2Proof.Machine.execFcRenderFrame s

end Sys2Proof.Machine
end

