-- ==== Sys2Proof/Machine/Sequence.lean ====
section
/-! DEFINITION. How the machine steps: where each unit's word stands, one input consumed a step, and the
placing of a table word where the next step finds it. -/

namespace Sys2Proof.Machine

/-- The operation word standing at a site: the `state` register for the sequencer (R89), `row` for the
resolver (R130), `attr_l` for the attribute functions (R150), the CG address net for the CG ROM (R111), the
code byte with `attr_l` bit 0 and `scan` for the lookup (R180), the pattern net for the expander (R182). -/
def State.wordAt (s : State) : Site → BitVec 16
  | .sequencer => s.state.setWidth 16
  | .frameCommand => 0#16
  | .resolver => s.row.setWidth 16
  | .attrByte => s.attrL.setWidth 16
  | .attrBit _ => s.attrL.setWidth 16
  | .cgAddress => s.nets.cgAddr.setWidth 16
  | .lookup =>
    (encode (.grLookup s.nets.code (s.attrL.extractLsb' 0 1) s.scan)).2
  | .expander => s.nets.pattern.setWidth 16

/-- Run the operation whose word stands at a site; a word that stands for none is refused by name. -/
def operate (site : Site) (s : State) : Host.Outcome State Fault Refusal :=
  match decode site (s.wordAt site) with
  | .ok i => exec i s
  | .error reason => .refused (.undecodable reason)

/-- One step: a block step samples `frame_tick` and performs the transition of the current state (R203); a
host write and a reset are steps of their own (R64, R273). With no input left the host is silent and
`frame_tick` is 0 (log entry 14). -/
def stepMachine (s : State) : Host.Outcome State Fault Refusal :=
  match s.inputs with
  | [] => operate .sequencer (s.beginStep false [])
  | .block tick :: rest => operate .sequencer (s.beginStep tick rest)
  | .hostWrite o b :: rest => .next ((s.beginStep false rest).hostWrite o b)
  | .reset :: rest => .next ((s.beginStep false rest).assertReset)
  | .operate site :: rest => operate site (s.beginStep false rest)

/-- Put a table word where its site's word stands. A ROWPTR16 word is stored high byte first in the slot
of the row under the cursor (R53, R83; log entry 11). -/
def State.placeWord (s : State) (site : Site) (w : Nat) : State :=
  match site with
  | .sequencer => { s with state := BitVec.ofNat 3 w }
  | .frameCommand => s
  | .resolver =>
    { s with
      vram := vramStore
        (vramStore s.vram (vaddr (slotAddr s.tableBase s.row.toNat)) (BitVec.ofNat 8 (w / 256)))
        (vaddr (slotAddr s.tableBase s.row.toNat + 1)) (BitVec.ofNat 8 w) }
  | .attrByte => { s with attrL := BitVec.ofNat 8 w }
  | .attrBit _ => { s with attrL := BitVec.ofNat 8 w }
  | .cgAddress => { s with nets.cgAddr := BitVec.ofNat 12 w }
  | .lookup =>
    { s with
      nets.code := BitVec.ofNat 8 (w / 16 % 128)
      attrL := (s.attrL &&& 0xFE#8) ||| BitVec.ofNat 8 (w / 2048 % 2)
      scan := BitVec.ofNat 4 w }
  | .expander => { s with nets.pattern := BitVec.ofNat 8 w }

/-- The input under which the next step runs the operation at a site: an ordinary block step for the
sequencer, the model's own `operate` for the others (log entry 8). -/
def inputFor : Site → Input
  | .sequencer => .block false
  | site => .operate site

/-- A table word placed so that the very next step runs it (log entries 9, 10). -/
def State.loadTableWord (s : State) (nbits w : Nat) : State :=
  { s.placeWord (tableSite nbits w) w with inputs := inputFor (tableSite nbits w) :: s.inputs }

end Sys2Proof.Machine
end

