-- ==== Sys2Proof/Machine/Step.lean ====
section
/-! DEFINITION. The step of the machine and the placing of an operation word. -/

namespace Sys2Proof.Machine

/-- One step of the machine. -/
def step (s : State) : Host.Outcome State Fault Refusal :=
  stepMachine s

/-- The state with a table word stored where the next step finds it. -/
def State.withFetchWord (s : State) (nbits w : Nat) : State :=
  s.loadTableWord nbits w

end Sys2Proof.Machine
end

