-- ==== Sys2Proof/Safety.lean ====
section
/-! DEFINITION. What counts as a state of the hardware and as a run of it, in the terms the statements use. -/

namespace Sys2Proof.Machine

/-- The memories are in canonical form and every register holds a value of its range (R22 to R25, R97). -/
abbrev State.Inv (s : State) : Prop :=
  Memory.wf Config.vramUnlisted 0x8000 s.vram = true ∧
  Memory.wf Config.cgUnlisted 4096 s.cgrom = true ∧
  Memory.wf Config.fbUnlisted (720 * 351) s.fb = true ∧
  s.state.toNat ≤ 4 ∧ s.row.toNat ≤ 26 ∧ s.scan.toNat ≤ 12 ∧ s.col.toNat ≤ 79

/-- An input the hardware has: a block step, a host write, a reset; not the model's own request to run one
unit alone (log entry 8). -/
def Input.ofHardware : Input → Bool
  | .operate _ => false
  | _ => true

/-- Everything the host is going to do is something the hardware's host can do (R251). -/
abbrev State.hardwareOnly (s : State) : Prop :=
  s.inputs.all Input.ofHardware = true

/-- `frame_tick` in the step about to be taken, when that step is the block's; `none` when it is not. -/
def State.nextBlockTick (s : State) : Option Bool :=
  match s.inputs with
  | [] => some false
  | .block tick :: _ => some tick
  | _ => none

/-- `n` steps, ending at the first fault or refusal. -/
def runSteps : Nat → State → Host.Outcome State Fault Refusal
  | 0, s => .next s
  | n + 1, s =>
    match step s with
    | .next t => runSteps n t
    | .fault r => .fault r
    | .refused r => .refused r

/-- Block steps left until `frame_done`, by the position of the cursor: a row is 2 pointer steps and
2 * 80 * 13 cell steps (R213). 0 in IDLE. -/
def State.stepsLeft (s : State) : Nat :=
  match s.state.toNat with
  | 1 => 2082 * (27 - s.row.toNat)
  | 2 => 2082 * (27 - s.row.toNat) - 1
  | 3 => 2082 * (27 - s.row.toNat) - 2 - 2 * (80 * s.scan.toNat + s.col.toNat)
  | 4 => 2082 * (27 - s.row.toNat) - 3 - 2 * (80 * s.scan.toNat + s.col.toNat)
  | _ => 0

end Sys2Proof.Machine
end

