-- ==== Sys2Proof/Certificates/Slice0/Obligations.lean ====
section
/-! DEFINITION. The statements for the provers. Each says what a numbered rule of spec/, or a chain of them,
says of the model. -/

open Sys2Proof Sys2Proof.Machine

/-! ### Encoding -/

/-- Every well-formed operation's word, standing at its site, decodes to that operation with every operand.
The sites are the model's (log entries 8, 11, 12). -/
def Obligations.DecodeOfEncodeIsTheInstruction : Prop :=
  ∀ i : Instr, i.wellFormed = true → decode (encode i).1 (encode i).2 = .ok i

/-- Every word that decodes stands for one well-formed operation, whose encoding is that word. The words are the
MODEL's where the spec gives none: the sites (log entry 8), the resolver's five-bit word (log entry 11), and the
lookup's word with code bit 7 in bit 12 above CGADDR12, which is why no bit of it is dropped (log entry 12). -/
def Obligations.EncodeOfDecodeIsTheWord : Prop :=
  ∀ (site : Site) (w : BitVec 16) (i : Instr), decode site w = .ok i →
    i.wellFormed = true ∧ encode i = (site, w)

/-- Words written out from R82, R85, R87 and R89 decode to the operations they stand for. Three are the MODEL's
forms: the resolver's word is the row index of R130 (log entry 11), the frame command has no bit pattern (R200)
and is the empty word (log entry 8), the lookup's word is CGADDR12 with code bit 7 above it (log entry 12). -/
def Obligations.WrittenOutWordsDecode : Prop :=
  decode .sequencer 0b100#16 = .ok .fcCellCode ∧
  decode .cgAddress 0b1_1000001_0101#16 = .ok (.cgrRead 1#1 0x41#7 5#4) ∧
  decode .lookup 0b1_1000001_0011#16 = .ok (.grLookup 0x41#8 1#1 3#4) ∧
  decode (.attrBit .underline) 0b00110000#16 = .ok (.apUnderline 0x30#8) ∧
  decode .attrByte 0b11001000#16 = .ok (.apProcess 0xC8#8) ∧
  decode .expander 0b00011000#16 = .ok (.grExpand 0x18#8) ∧
  decode .resolver 26#16 = .ok (.rprResolve 26#5) ∧
  decode .frameCommand 0#16 = .ok .fcRenderFrame

/-- FSM3 codes 0b000 to 0b100 select the five transitions of R89; codes 0b101 to 0b111 are rejected by name
(I13). The codes are the spec's own choice D13. -/
def Obligations.FsmCodesSelectTheTransitions : Prop :=
  ∀ code : BitVec 3, decode .sequencer (code.setWidth 16) =
    if code = 0b000#3 then .ok .fcIdle
    else if code = 0b001#3 then .ok .fcRowHi
    else if code = 0b010#3 then .ok .fcRowLo
    else if code = 0b011#3 then .ok .fcCellAttr
    else if code = 0b100#3 then .ok .fcCellCode
    else .error .unreachableFsmCode

/-! ### character_generator_rom, row_pointer_resolver -/

/-- R111: CGR.READ completes on every address, lines 13 to 15 included, with the byte CGROM[a]; it changes
no register and no memory. The address is {bank, glyph, line}; the read also shows on the ports. -/
def Obligations.CgrReadReturnsTheAddressedByte : Prop :=
  ∀ (bank : BitVec 1) (glyph : BitVec 7) (line : BitVec 4) (s : State),
    ∃ a : CgAddr, a.toNat = 2048 * bank.toNat + 16 * glyph.toNat + line.toNat ∧
      exec (.cgrRead bank glyph line) s =
        .next { s with
          nets.cgAddr := a
          nets.rom := Memory.read 0xFF#8 s.cgrom a.toNat
          ports.cgRead := some (a, Memory.read 0xFF#8 s.cgrom a.toNat) }

/-- R130: RPR.RESOLVE completes on every row 0 to 26 with row_start = (ptr - 0x8000) mod 0x8000, where ptr
is made of the two bytes at TABLE_BASE + 4*(54 + y), high byte first; nothing else changes but the record of
the two reads on the ports. -/
def Obligations.RprResolveComputesTheRowStart : Prop :=
  ∀ (y : BitVec 5) (s : State), y.toNat ≤ 26 →
    ∃ t, exec (.rprResolve y) s = .next t ∧
      (let e : Int := s.tableBase.toNat + 4 * (54 + y.toNat)
       let ptr : Int := 256 * (s.vread e).toNat + (s.vread (e + 1)).toNat
       (t.rowStart.toNat : Int) = (ptr - 0x8000) % 0x8000 ∧
       t = { s with
         rowStart := t.rowStart
         ports.vramReads := s.ports.vramReads ++
           [(vaddr e, s.vread e), (vaddr (e + 1), s.vread (e + 1))] })

/-- R131: row y reads VRAM offsets vaddr(TABLE_BASE + 216 + 4*y) and vaddr(TABLE_BASE + 217 + 4*y). -/
def Obligations.RowReadsItsSlotOffsets : Prop :=
  ∀ (y : BitVec 5) (s : State), y.toNat ≤ 26 →
    ∃ t, exec (.rprResolve y) s = .next t ∧
      t.ports.vramReads.map (fun r => r.1.toNat) =
        s.ports.vramReads.map (fun r => r.1.toNat) ++
          [(s.tableBase.toNat + 216 + 4 * y.toNat) % 0x8000,
           (s.tableBase.toNat + 217 + 4 * y.toNat) % 0x8000]

/-! ### attribute_processor -/

/-- R150: AP.PROCESS completes on all 256 attribute bytes with the pattern, foreground and background of the
five steps in their precedence; nothing else changes. -/
def Obligations.ApProcessFollowsTheFiveSteps : Prop :=
  ∀ (attr : Byte) (s : State),
    exec (.apProcess attr) s =
      (let p1 := if attr.getLsbD 4 = true ∧ s.scan = 12#4 then 0xFF#8 else ~~~s.nets.rom
       let fg1 := if attr.getLsbD 1 = true then Pixel.fgLo else Pixel.fgHi
       let fg := if attr.getLsbD 2 = true then Pixel.bg else fg1
       let p := if attr.getLsbD 5 = true then ~~~p1 else p1
       .next { s with nets.pattern := p, nets.fg := fg, nets.bg := Pixel.bg })

/-- R152 and R153: AP.UNDERLINE completes with 0xFF when bit 4 is set on scanline 12 and with the complement
of the ROM byte otherwise; after AP.PROCESS a set bit 4 gives, on scanline 12, 0x00 with reverse video and
0xFF without it, whatever the ROM byte, drawn in the background under conceal; on scanlines 0 to 11
AP.PROCESS ignores bit 4. -/
def Obligations.ApUnderlineForcesTheFinalScanline : Prop :=
  (∀ (attr : Byte) (s : State),
    exec (.apUnderline attr) s =
      .next { s with
        nets.pattern := if attr.getLsbD 4 = true ∧ s.scan = 12#4 then 0xFF#8 else ~~~s.nets.rom }) ∧
  (∀ (attr : Byte) (s : State), attr.getLsbD 4 = true → s.scan = 12#4 →
    ∃ t, exec (.apProcess attr) s = .next t ∧
      (t.nets.pattern = if attr.getLsbD 5 = true then 0x00#8 else 0xFF#8) ∧
      (attr.getLsbD 2 = true → t.nets.fg = t.nets.bg)) ∧
  (∀ (attr : Byte) (s : State), s.scan.toNat ≤ 11 →
    exec (.apProcess (attr ^^^ 0x10#8)) s = exec (.apProcess attr) s)

/-- R154: AP.DIM completes with FG_LO or FG_HI and changes nothing else; through AP.PROCESS bit 1 leaves the
pattern and the background; it never reaches the spacing pixel, and under conceal it reaches no pixel. -/
def Obligations.ApDimSelectsTheIntensity : Prop :=
  (∀ (attr : Byte) (s : State),
    exec (.apDim attr) s =
      .next { s with nets.fg := if attr.getLsbD 1 = true then Pixel.fgLo else Pixel.fgHi }) ∧
  (∀ (attr : Byte) (s : State), ∃ t u,
    exec (.apProcess attr) s = .next t ∧ exec (.apProcess (attr ^^^ 0x02#8)) s = .next u ∧
      u.nets.pattern = t.nets.pattern ∧ u.nets.bg = t.nets.bg) ∧
  (∀ (cgrom : List Host.Cell) (attr code : Byte) (scan : BitVec 4),
    (cellPixels cgrom (attr ^^^ 0x02#8) code scan)[8] = (cellPixels cgrom attr code scan)[8] ∧
    (attr.getLsbD 2 = true →
      cellPixels cgrom (attr ^^^ 0x02#8) code scan = cellPixels cgrom attr code scan))

/-- R155: AP.CONCEAL completes with fg = bg when bit 2 is set and changes nothing else; with bit 2 set all
nine pixels of the cell are BG on every scanline, whatever the code, the ROM and the other bits. -/
def Obligations.ApConcealHidesTheCell : Prop :=
  (∀ (attr : Byte) (s : State),
    exec (.apConceal attr) s =
      .next { s with nets.fg := if attr.getLsbD 2 = true then s.nets.bg else s.nets.fg }) ∧
  (∀ (cgrom : List Host.Cell) (attr code : Byte) (scan : BitVec 4), attr.getLsbD 2 = true →
    ∀ k : Fin 9, (cellPixels cgrom attr code scan)[k] = Pixel.bg)

/-- R156: AP.REVERSE completes with the complement of the pattern when bit 5 is set and changes nothing
else, fg and bg included; AP.PROCESS with bit 5 and no underline gives the ROM byte itself; bit 5 never reaches
the spacing pixel, and under conceal it reaches no pixel. -/
def Obligations.ApReverseComplementsThePattern : Prop :=
  (∀ (attr : Byte) (s : State),
    exec (.apReverse attr) s =
      .next { s with
        nets.pattern := if attr.getLsbD 5 = true then ~~~s.nets.pattern else s.nets.pattern }) ∧
  (∀ (attr : Byte) (s : State), attr.getLsbD 5 = true → ¬ (attr.getLsbD 4 = true ∧ s.scan = 12#4) →
    ∃ t, exec (.apProcess attr) s = .next t ∧ t.nets.pattern = s.nets.rom) ∧
  (∀ (cgrom : List Host.Cell) (attr code : Byte) (scan : BitVec 4),
    (cellPixels cgrom (attr ^^^ 0x20#8) code scan)[8] = (cellPixels cgrom attr code scan)[8] ∧
    (attr.getLsbD 2 = true →
      cellPixels cgrom (attr ^^^ 0x20#8) code scan = cellPixels cgrom attr code scan))

/-- R157: AP.ALTFONT completes with bank_offset 0x800 or 0x000 and changes nothing else; the font bank moves
the CG address of a glyph by exactly 0x0800; bit 0 reaches no pixel on the final scanline of an underlined cell,
nor under conceal; toggled in `attr_l` it changes neither the scanline and column that FC.CELL_CODE writes, so that
every position outside the cell's nine is left as before, nor where the cursor goes. -/
def Obligations.ApAltfontSelectsTheBank : Prop :=
  (∀ (attr : Byte) (s : State),
    exec (.apAltfont attr) s =
      .next { s with nets.bankOffset := if attr.getLsbD 0 = true then 0x800#12 else 0x000#12 }) ∧
  (∀ (code : Byte) (scan : BitVec 4) (s : State), ∃ t u,
    exec (.grLookup code 0#1 scan) s = .next t ∧ exec (.grLookup code 1#1 scan) s = .next u ∧
      u.nets.cgAddr.toNat = t.nets.cgAddr.toNat + 0x0800) ∧
  (∀ (cgrom : List Host.Cell) (attr code : Byte) (scan : BitVec 4),
    (attr.getLsbD 4 = true ∧ scan = 12#4) ∨ attr.getLsbD 2 = true →
      cellPixels cgrom (attr ^^^ 0x01#8) code scan = cellPixels cgrom attr code scan) ∧
  (∀ s : State, s.row.toNat ≤ 26 → s.scan.toNat ≤ 12 → s.col.toNat ≤ 79 →
    ∃ t u, exec .fcCellCode s = .next t ∧
      exec .fcCellCode { s with attrL := s.attrL ^^^ 0x01#8 } = .next u ∧
      (∀ x y : Nat, x < 720 → y < 351 →
        ¬ (y = 13 * s.row.toNat + s.scan.toNat ∧ 9 * s.col.toNat ≤ x ∧ x < 9 * s.col.toNat + 9) →
        fbRead t.fb x y = fbRead s.fb x y ∧ fbRead u.fb x y = fbRead s.fb x y) ∧
      u.state = t.state ∧ u.row = t.row ∧ u.scan = t.scan ∧ u.col = t.col)

/-- R158: AP.RSVD3, AP.RSVD6 and AP.RSVD7 complete and change nothing; AP.PROCESS does not read bits 3, 6
and 7. -/
def Obligations.ApReservedBitsHaveNoEffect : Prop :=
  (∀ (attr : Byte) (s : State), exec (.apRsvd3 attr) s = .next s ∧ exec (.apRsvd6 attr) s = .next s ∧
    exec (.apRsvd7 attr) s = .next s) ∧
  (∀ (attr : Byte) (s : State), exec (.apProcess attr) s = exec (.apProcess (attr &&& 0x37#8)) s)

/-- R162 (c), derived by the spec from R150: toggling bit 5 complements the lit pattern and leaves the
foreground and the background. -/
def Obligations.TogglingReverseComplementsThePattern : Prop :=
  ∀ (attr : Byte) (s : State), ∃ t u,
    exec (.apProcess attr) s = .next t ∧ exec (.apProcess (attr ^^^ 0x20#8)) s = .next u ∧
      u.nets.pattern = ~~~t.nets.pattern ∧ u.nets.fg = t.nets.fg ∧ u.nets.bg = t.nets.bg

/-- R162 (a), derived by the spec from R150: an underlined cell's final scanline does not depend on its
code, on the CG ROM or on the font bank. -/
def Obligations.UnderlineHidesTheGlyph : Prop :=
  ∀ (cgrom cgrom' : List Host.Cell) (attr attr' code code' : Byte), attr.getLsbD 4 = true →
    attr' &&& 0xFE#8 = attr &&& 0xFE#8 →
    cellPixels cgrom attr code 12#4 = cellPixels cgrom' attr' code' 12#4

/-- R93: two attribute bytes that differ only in bits 3, 6 and 7 produce identical pixels, through
CELL_CODE of the same cell. -/
def Obligations.ReservedBitsNeverReachTheFramebuffer : Prop :=
  ∀ (s : State) (a b : Byte), s.row.toNat ≤ 26 → s.scan.toNat ≤ 12 → s.col.toNat ≤ 79 →
    a &&& 0x37#8 = b &&& 0x37#8 →
    ∃ t u, exec .fcCellCode { s with attrL := a } = .next t ∧
      exec .fcCellCode { s with attrL := b } = .next u ∧ t.fb = u.fb ∧ t.state = u.state

/-! ### glyph_rasterizer -/

/-- R180: GR.LOOKUP completes on every code, bank and scanline; it reads the CG ROM at the formula's address
and changes only the datapath's values and the CG port. -/
def Obligations.GrLookupReadsTheFormulaAddress : Prop :=
  ∀ (code : Byte) (bank : BitVec 1) (scan : BitVec 4) (s : State),
    exec (.grLookup code bank scan) s =
      (let off := if bank = 1#1 then 0x800#12 else 0x000#12
       let a := ((code.setWidth 12 <<< 4) &&& 0x7F0#12) ||| off ||| scan.setWidth 12
       .next { s with
         nets.bankOffset := off
         nets.cgAddr := a
         nets.rom := Memory.read 0xFF#8 s.cgrom a.toNat
         ports.cgRead := some (a, Memory.read 0xFF#8 s.cgrom a.toNat) })

/-- R181: as fields the address is {bank, code[6:0], scan[3:0]}; it depends on nothing else. -/
def Obligations.LookupAddressIsBankCodeScan : Prop :=
  ∀ (code : Byte) (bank : BitVec 1) (scan : BitVec 4) (s : State), ∃ t,
    exec (.grLookup code bank scan) s = .next t ∧
      t.nets.cgAddr.toNat = 2048 * bank.toNat + 16 * (code.toNat % 128) + scan.toNat

/-- R94, derived by the spec from R91: code byte bit 7 does not reach the lookup. -/
def Obligations.CodeBitSevenIsDiscarded : Prop :=
  ∀ (code : Byte) (bank : BitVec 1) (scan : BitVec 4) (s : State),
    exec (.grLookup (code ^^^ 0x80#8) bank scan) s = exec (.grLookup code bank scan) s

/-- R182: GR.EXPAND completes with nine pixels, pixel k from pattern bit 7 - k and the ninth the background;
nothing else changes. -/
def Obligations.GrExpandMapsBitsToPixels : Prop :=
  ∀ (p : Byte) (s : State), ∃ t, exec (.grExpand p) s = .next t ∧
    t = { s with nets.pixels := t.nets.pixels } ∧
    (∀ k : Fin 9, t.nets.pixels[k] =
      if k.val < 8 ∧ p.getLsbD (7 - k.val) = true then s.nets.fg else s.nets.bg)

/-- R185, derived by the spec from R150, R180 and R182: the pixels of a cell are what GR.LOOKUP, AP.PROCESS and
GR.EXPAND leave, run one after the other on its attribute and code bytes. -/
def Obligations.CellPixelsComposesTheUnits : Prop :=
  ∀ (attr code : Byte) (s : State), ∃ t u v,
    exec (.grLookup code (attr.extractLsb' 0 1) s.scan) s = .next t ∧
    exec (.apProcess attr) t = .next u ∧
    exec (.grExpand u.nets.pattern) u = .next v ∧
    v.nets.pixels = cellPixels s.cgrom attr code s.scan

/-- R183: the ninth pixel of every cell on every scanline is BG: after CELL_CODE it stands so in the
framebuffer. -/
def Obligations.SpacingColumnIsBackground : Prop :=
  ∀ s : State, s.row.toNat ≤ 26 → s.scan.toNat ≤ 12 → s.col.toNat ≤ 79 →
    ∃ t, exec .fcCellCode s = .next t ∧
      fbRead t.fb (9 * s.col.toNat + 8) (13 * s.row.toNat + s.scan.toNat) = Pixel.bg

/-! ### frame_composer_fsm -/

/-- R204 (the spec's own choices D2, D15): FC.IDLE completes; with a tick it goes to ROW_HI with row 0,
without one it stays; it clears nothing. -/
def Obligations.FcIdleWaitsForTheTick : Prop :=
  ∀ s : State,
    (s.ports.frameTick = true → exec .fcIdle s = .next { s with row := 0#5, state := 0b001#3 }) ∧
    (s.ports.frameTick = false → exec .fcIdle s = .next { s with state := 0b000#3 })

/-- R205 (the spec's own choice D7): FC.ROW_HI completes with ptr_hi = VRead(TABLE_BASE + 4*(54 + row)) and
state ROW_LO; nothing else changes but the record of the read. -/
def Obligations.FcRowHiLatchesTheHighByte : Prop :=
  ∀ s : State,
    let e : Int := s.tableBase.toNat + 4 * (54 + s.row.toNat)
    exec .fcRowHi s =
      .next { s with
        ptrHi := s.vread e
        state := 0b010#3
        ports.vramReads := s.ports.vramReads ++ [(vaddr e, s.vread e)] }

/-- R206: FC.ROW_LO completes with row_start from ptr_hi and the slot's low byte, scan and col 0 and state
CELL_ATTR; nothing else changes but the record of the read. With no host write between ROW_HI and ROW_LO
row_start is Resolve(row). -/
def Obligations.FcRowLoSetsTheRowStart : Prop :=
  (∀ s : State, ∃ t, exec .fcRowLo s = .next t ∧
    (let e : Int := s.tableBase.toNat + 4 * (54 + s.row.toNat) + 1
     let ptr : Int := 256 * s.ptrHi.toNat + (s.vread e).toNat
     (t.rowStart.toNat : Int) = (ptr - 0x8000) % 0x8000 ∧
     t = { s with
       rowStart := t.rowStart
       scan := 0#4
       col := 0#7
       state := 0b011#3
       ports.vramReads := s.ports.vramReads ++ [(vaddr e, s.vread e)] })) ∧
  (∀ s : State, ∃ t u, exec .fcRowHi s = .next t ∧ exec .fcRowLo t = .next u ∧
    u.rowStart = s.resolve s.row.toNat)

/-- R207 (the spec's own choice D7): FC.CELL_ATTR completes with attr_l = VRead(row_start + 2*col) and state
CELL_CODE; nothing else changes but the record of the read. -/
def Obligations.FcCellAttrLatchesTheAttribute : Prop :=
  ∀ s : State,
    let e : Int := s.rowStart.toNat + 2 * s.col.toNat
    exec .fcCellAttr s =
      .next { s with
        attrL := s.vread e
        state := 0b100#3
        ports.vramReads := s.ports.vramReads ++ [(vaddr e, s.vread e)] }

/-- R208 (the spec's own choices D7, D14, D15): FC.CELL_CODE of a cell inside the framebuffer completes; it
writes the nine pixels of CellPixels at (9*col + k, 13*row + scan) and no other position, and touches no
other memory. The ports of R37 (the spec's D2; what a port holds in a step is log entry 18) show the code byte's
read, the CG ROM's read at the formula's address, which happens even when underline discards its byte (D14),
and the burst of nine pixels. Where the cursor goes is R209's statement. -/
def Obligations.FcCellCodeDrawsTheCell : Prop :=
  ∀ s : State, s.row.toNat ≤ 26 → s.scan.toNat ≤ 12 → s.col.toNat ≤ 79 →
    ∃ t, exec .fcCellCode s = .next t ∧
      (let code := s.vread (s.rowStart.toNat + 2 * s.col.toNat + 1)
       ∀ x y : Nat, x < 720 → y < 351 →
        (∀ k : Fin 9, x = 9 * s.col.toNat + k.val → y = 13 * s.row.toNat + s.scan.toNat →
          fbRead t.fb x y = (cellPixels s.cgrom s.attrL code s.scan)[k]) ∧
        (¬ (y = 13 * s.row.toNat + s.scan.toNat ∧ 9 * s.col.toNat ≤ x ∧ x < 9 * s.col.toNat + 9) →
          fbRead t.fb x y = fbRead s.fb x y)) ∧
      (∀ a : Int, t.vread a = s.vread a) ∧ t.vram = s.vram ∧ t.cgrom = s.cgrom ∧
      t.rowStart = s.rowStart ∧ t.ptrHi = s.ptrHi ∧ t.attrL = s.attrL ∧ t.tableBase = s.tableBase ∧
      t.inputs = s.inputs ∧ t.draws = s.draws ∧ t.ports.frameTick = s.ports.frameTick ∧
      (let e : Int := s.rowStart.toNat + 2 * s.col.toNat + 1
       t.ports.vramReads = s.ports.vramReads ++ [(vaddr e, s.vread e)] ∧
       (∃ a : CgAddr,
         a.toNat = 2048 * (s.attrL.toNat % 2) + 16 * ((s.vread e).toNat % 128) + s.scan.toNat ∧
         t.ports.cgRead = some (a, Memory.read 0xFF#8 s.cgrom a.toNat)) ∧
       (∃ b : Burst, t.ports.fbWrite = some b ∧ b.x.toNat = 9 * s.col.toNat ∧
         b.y.toNat = 13 * s.row.toNat + s.scan.toNat ∧
         b.pixels = cellPixels s.cgrom s.attrL (s.vread e) s.scan))

/-- R209: at the end of CELL_CODE columns go fastest, then scanlines, then rows; after the last cell the
state is IDLE and frame_done is asserted. -/
def Obligations.AdvanceGoesColumnsScanlinesRows : Prop :=
  ∀ s : State, s.row.toNat ≤ 26 → s.scan.toNat ≤ 12 → s.col.toNat ≤ 79 → s.ports.frameDone = false →
    ∃ t, exec .fcCellCode s = .next t ∧
      (t.state.toNat, t.row.toNat, t.scan.toNat, t.col.toNat, t.ports.frameDone) =
        if s.col.toNat < 79 then (3, s.row.toNat, s.scan.toNat, s.col.toNat + 1, false)
        else if s.scan.toNat < 12 then (3, s.row.toNat, s.scan.toNat + 1, 0, false)
        else if s.row.toNat < 26 then (1, s.row.toNat + 1, s.scan.toNat, s.col.toNat, false)
        else (0, s.row.toNat, s.scan.toNat, s.col.toNat, true)

/-- The model's own fault (R242 lets it keep one; log entry 17): FC.CELL_CODE stops exactly on a cell
outside the framebuffer, and no other operation stops. -/
def Obligations.OnlyAnOutsideCellStops : Prop :=
  (∀ s : State, exec .fcCellCode s = .fault .framebufferOutOfRange ↔
    ¬ (s.col.toNat < 80 ∧ 13 * s.row.toNat + s.scan.toNat < 351)) ∧
  (∀ (i : Instr) (s : State), i ≠ .fcCellCode → ∃ t, exec i s = .next t)

/-- The frame of R200: FC.RENDER_FRAME in IDLE completes with every pixel of the frame: position (9*c + k, 13*r + s) holds
pixel k of CellPixels of the cell at Resolve(r) + 2*c on scanline s. VRAM, CG ROM, strap, inputs and the IDLE
state are as before. That the whole frame is one step of the operation, and what it leaves beside the framebuffer,
is the MODEL's choice (log entry 13). -/
def Obligations.RenderFrameDrawsEveryCell : Prop :=
  ∀ s : State, s.state = 0b000#3 →
    ∃ t, exec .fcRenderFrame s = .next t ∧
      (∀ (r sc c : Nat) (k : Fin 9), r ≤ 26 → sc ≤ 12 → c ≤ 79 →
        fbRead t.fb (9 * c + k.val) (13 * r + sc) =
          (cellPixels s.cgrom (s.vread ((s.resolve r).toNat + 2 * c))
            (s.vread ((s.resolve r).toNat + 2 * c + 1)) (BitVec.ofNat 4 sc))[k]) ∧
      t.vram = s.vram ∧ t.cgrom = s.cgrom ∧ t.tableBase = s.tableBase ∧ t.inputs = s.inputs ∧
      t.draws = s.draws ∧ t.state = 0b000#3

/-- R211 (the spec's own choice D9): a frame asked for while busy is ignored. -/
def Obligations.RenderFrameWhileBusyDoesNothing : Prop :=
  ∀ s : State, s.state ≠ 0b000#3 → exec .fcRenderFrame s = .next s

/-- R70: two frames from the same VRAM, CG ROM and table base leave the same framebuffer, whatever stood
there and in the registers before; as canonical memories they are equal data. -/
def Obligations.RenderingIsRepeatable : Prop :=
  ∀ s u : State, s.Inv → u.Inv → s.state = 0b000#3 → u.state = 0b000#3 → s.vram = u.vram →
    s.cgrom = u.cgrom → s.tableBase = u.tableBase →
    ∃ t v, exec .fcRenderFrame s = .next t ∧ exec .fcRenderFrame u = .next v ∧ t.fb = v.fb

/-- R212, derived by the spec from R200 and R204 to R209: a frame started in IDLE with no host write takes
56,215 steps (R213), whatever frame_tick does after the first one (D9), and leaves the framebuffer of
FC.RENDER_FRAME. That the two also agree on the registers, the datapath values and frame_done is no part of
R212: FC.RENDER_FRAME leaves them so by the MODEL's choice (log entry 13; the datapath values log entry 7). -/
def Obligations.FsmFrameEqualsRenderFrame : Prop :=
  ∀ (s : State) (rest : List Input), s.state = 0b000#3 → s.inputs = .block true :: rest →
    (∀ i ∈ rest, ∃ tick, i = Input.block tick) →
    ∃ t u, runSteps 56215 s = .next t ∧ exec .fcRenderFrame s = .next u ∧
      t.fb = u.fb ∧ t.state = u.state ∧ t.row = u.row ∧ t.scan = u.scan ∧ t.col = u.col ∧
      t.rowStart = u.rowStart ∧ t.ptrHi = u.ptrHi ∧ t.attrL = u.attrL ∧ t.nets = u.nets ∧
      t.vram = u.vram ∧ t.ports.frameDone = true

/-! ### The machine's step -/

/-- A block step runs the operation that the code in `state` decodes to (R203), on the state with one input
consumed, frame_tick sampled and the output strobes low. The MODEL's choices in it: the host's inputs are a
list, and after the last one the block steps with frame_tick 0 (log entry 14); the ports are cleared at the start
of a step (log entry 18); a code that decodes to none is refused (log entry 16, after I13); a unit run alone, by
the model's own input, runs the operation its word decodes to (log entry 8). -/
def Obligations.StepRunsTheDecodedOperation : Prop :=
  (∀ (s : State) (tick : Bool) (i : Instr), s.nextBlockTick = some tick →
    decode .sequencer (s.wordAt .sequencer) = .ok i →
    step s = exec i (s.beginStep tick s.inputs.tail)) ∧
  (∀ (s : State) (tick : Bool) (reason : DecodeError), s.nextBlockTick = some tick →
    decode .sequencer (s.wordAt .sequencer) = .error reason →
    step s = .refused (.undecodable reason)) ∧
  (∀ (s : State) (site : Site) (rest : List Input) (i : Instr), s.inputs = .operate site :: rest →
    decode site (s.wordAt site) = .ok i → step s = exec i (s.beginStep false rest))

/-- R50: VRead(a) is the byte at a mod 0x8000, for every integer a. -/
def Obligations.VReadWrapsModuloTheBuffer : Prop :=
  ∀ (s : State) (a : Int), s.vread a = Memory.read 0x00#8 s.vram (a % 0x8000).toNat

/-- R64 (the spec's own choice D8): a host write is a step of its own; every later read of that offset
returns its byte, every other offset reads as before, and nothing else of the machine changes but the input
consumed and the ports. -/
def Obligations.HostWriteIsSeenByLaterReads : Prop :=
  ∀ (s : State) (o : Offset) (b : Byte) (rest : List Input), s.inputs = .hostWrite o b :: rest →
    ∃ t, step s = .next t ∧
      (∀ a : Int, t.vread a = if vaddr a = o then b else s.vread a) ∧
      t = { s with vram := t.vram, inputs := rest, ports := Ports.quiet false }

/-- R59: no operation writes VRAM or the CG ROM, so every byte of both reads after it as before it. -/
def Obligations.OperationsOnlyReadVramAndRom : Prop :=
  ∀ (i : Instr) (s t : State), exec i s = .next t →
    (∀ a : Int, t.vread a = s.vread a) ∧ (∀ a : CgAddr, cgByte t.cgrom a = cgByte s.cgrom a) ∧
    t.vram = s.vram ∧ t.cgrom = s.cgrom

/-- R39 and R60 (the spec's own choices D3, D20): no step of any kind, a host write and a reset included,
changes TABLE_BASE or the CG ROM. -/
def Obligations.StrapAndRomAreConstant : Prop :=
  ∀ s t : State, step s = .next t → t.tableBase = s.tableBase ∧ t.cgrom = s.cgrom

/-- Every step keeps the invariant: canonical memories, a legal FSM code, counters in range (R22 to R25,
R97). -/
def Obligations.EveryStepKeepsTheInvariant : Prop :=
  ∀ s t : State, s.Inv → step s = .next t → t.Inv

/-- The invariant holds after reset. -/
def Obligations.InvariantHoldsAtReset : Prop :=
  State.reset.Inv

/-- R240: from every state that meets the invariant, whatever stands in VRAM, the CG ROM, the pointers and
the strap, and whatever the hardware's host does next, the step completes: no exception, no stop. -/
def Obligations.NoInputStopsTheBlock : Prop :=
  ∀ s : State, s.Inv → s.hardwareOnly → ∃ t, step s = .next t

/-- R213 and R216 (derived by the spec): every block step of a frame brings frame_done exactly one step
closer, whatever frame_tick and VRAM are; a tick in IDLE starts a frame of 56,214 further steps; without one
the block stays in IDLE. -/
def Obligations.EveryBlockStepCountsDown : Prop :=
  ∀ (s t : State) (tick : Bool), s.Inv → s.nextBlockTick = some tick → step s = .next t →
    (s.state ≠ 0b000#3 → t.stepsLeft + 1 = s.stepsLeft) ∧
    (s.state = 0b000#3 → tick = true → t.stepsLeft = 56214) ∧
    (s.state = 0b000#3 → tick = false → t.state = 0b000#3)

/-- R211 (the spec's own choice D9): in any state but IDLE a step with frame_tick = 1 does what the step
with frame_tick = 0 does. -/
def Obligations.TickWhileBusyIsIgnored : Prop :=
  ∀ (s : State) (rest : List Input), s.Inv → s.state ≠ 0b000#3 →
    ∃ t, step { s with inputs := .block false :: rest } = .next t ∧
      step { s with inputs := .block true :: rest } = .next { t with ports.frameTick := true }

/-- R31 and R210 (the spec's own choices D18, D23): a block step asserts frame_done exactly when it leaves
CELL_CODE with row 26, scanline 12, column 79, and the block is then in IDLE, not busy; in every state busy is 1
exactly when the state is not IDLE. -/
def Obligations.FrameDoneMarksTheLastCell : Prop :=
  (∀ s : State, s.busy = true ↔ s.state ≠ 0b000#3) ∧
  (∀ (s t : State) (tick : Bool), s.Inv → s.nextBlockTick = some tick → step s = .next t →
    (t.ports.frameDone = true ↔
      s.state = 0b100#3 ∧ s.row = 26#5 ∧ s.scan = 12#4 ∧ s.col = 79#7) ∧
    (t.ports.frameDone = true → t.state = 0b000#3 ∧ t.busy = false))

/-- R56, R204 (D15), R64: of the hardware's steps only the block step in CELL_CODE, and reset, change the
framebuffer: a tick clears nothing, and a host write does not reach it in any FSM state. -/
def Obligations.OnlyCellCodeWritesTheFramebuffer : Prop :=
  ∀ s t : State, s.hardwareOnly → s.inputs.head? ≠ some .reset →
    ¬ (s.nextBlockTick ≠ none ∧ s.state = 0b100#3) → step s = .next t → t.fb = s.fb

/-- R26, R134, R277: of the hardware's steps only the block step in ROW_LO, and reset, change row_start, so a
late pointer write changes nothing in the row being drawn; a host write changes it in no FSM state. -/
def Obligations.RowStartChangesOnlyInRowLo : Prop :=
  ∀ s t : State, s.hardwareOnly → s.inputs.head? ≠ some .reset →
    ¬ (s.nextBlockTick ≠ none ∧ s.state = 0b010#3) → step s = .next t → t.rowStart = s.rowStart

/-- R276 (derived by the spec): two host writes to the slot that fall between ROW_HI and ROW_LO give a row
start made of the old high byte and the new low byte. That the high byte is the old one rests wholly on the spec's
own choice D7, high before low (log entry 19, unsafe: D7 itself warns of claims that depend on this order), and
that writes fall between two block steps rests on its choice D8 (log entry 21). -/
def Obligations.TornPointerMixesOldAndNew : Prop :=
  ∀ (s : State) (hi lo : Byte) (b1 b2 : Bool) (rest : List Input),
    let e : Int := s.tableBase.toNat + 4 * (54 + s.row.toNat)
    s.state = 0b001#3 →
    s.inputs = .block b1 :: .hostWrite (vaddr e) hi :: .hostWrite (vaddr (e + 1)) lo :: .block b2 :: rest →
    ∃ t, runSteps 4 s = .next t ∧ t.state = 0b011#3 ∧
      t.rowStart.toNat = (256 * (s.vread e).toNat + lo.toNat) % 0x8000

/-- R203 (the spec's own choice D1): a block step makes at most one VRAM read; it reads the CG ROM and
writes the framebuffer only in CELL_CODE, and in IDLE it makes no access. -/
def Obligations.BlockStepMakesAtMostOneVramRead : Prop :=
  ∀ (s t : State) (tick : Bool), s.nextBlockTick = some tick → step s = .next t →
    t.ports.vramReads.length ≤ 1 ∧
    (t.ports.cgRead.isSome = true ↔ s.state = 0b100#3) ∧
    (t.ports.fbWrite.isSome = true ↔ s.state = 0b100#3) ∧
    (t.ports.vramReads = [] ↔ s.state = 0b000#3)

/-- R29: the per-cell datapath values are not held across steps: what they were before a block step changes
nothing that the step does to the registers, the memories or the ports (the nets are the model's own
holding, log entry 7). -/
def Obligations.BlockStepsIgnoreTheNets : Prop :=
  ∀ (s t : State) (n : Nets) (tick : Bool), s.nextBlockTick = some tick → step s = .next t →
    ∃ u, step { s with nets := n } = .next u ∧ { u with nets := t.nets } = t

/-- R270, R273 (the spec's own choice D10): reset at any moment leaves IDLE, not busy, no frame_done, VRAM,
CG ROM and strap untouched, and every counter in its range. -/
def Obligations.ResetAbandonsTheFrame : Prop :=
  ∀ (s : State) (rest : List Input), s.inputs = .reset :: rest →
    ∃ t, step s = .next t ∧ t.state = 0b000#3 ∧ t.busy = false ∧ t.ports.frameDone = false ∧
      t.vram = s.vram ∧ t.cgrom = s.cgrom ∧ t.tableBase = s.tableBase ∧ t.inputs = rest ∧
      t.row.toNat ≤ 26 ∧ t.scan.toNat ≤ 12 ∧ t.col.toNat ≤ 79

/-- R40 (the spec's own choice D10): after reset the state is IDLE, not busy, no frame_done, and CGROM and
TABLE_BASE hold their parameters. The zero of the registers, of VRAM and the BG of the framebuffer are the
MODEL's choices (log entries 1, 2, 3). -/
def Obligations.ResetStateIsTheTable : Prop :=
  State.reset.state = 0b000#3 ∧ State.reset.busy = false ∧ State.reset.ports.frameDone = false ∧
  (∀ a : CgAddr, cgByte State.reset.cgrom a = Config.cgrom a) ∧
  State.reset.tableBase = Config.tableBase ∧
  State.reset.row = 0 ∧ State.reset.scan = 0 ∧ State.reset.col = 0 ∧ State.reset.rowStart = 0 ∧
  State.reset.ptrHi = 0 ∧ State.reset.attrL = 0 ∧
  (∀ a : Int, State.reset.vread a = 0) ∧ (∀ x y : Nat, fbRead State.reset.fb x y = Pixel.bg)

/-- R69 (the spec's own choice D11): while a frame is drawn a host read of a position returns the frame's new
pixel from the step that writes it on: the block step that changes what a host read returns is the CELL_CODE
step of that position, and it returns that cell's pixel. -/
def Obligations.HostReadChangesAtItsCellCode : Prop :=
  ∀ (s t : State) (tick : Bool) (x y : Nat), s.Inv → s.nextBlockTick = some tick → step s = .next t →
    t.hostReadFb x y ≠ s.hostReadFb x y →
    ∃ k : Fin 9, s.state = 0b100#3 ∧ x = 9 * s.col.toNat + k.val ∧
      y = 13 * s.row.toNat + s.scan.toNat ∧
      t.hostReadFb x y =
        some (cellPixels s.cgrom s.attrL (s.vread (s.rowStart.toNat + 2 * s.col.toNat + 1)) s.scan)[k]
end

