-- ==== Sys2Proof/Laws/PerInstr.lean ====
section
/-! SUPPORT. The family WordFits: the encoder's word of an operation fits the format of its site. -/

namespace Sys2Proof

/-- The word has no bit above its site's format. -/
def Laws.WordFits.Statement (i : Instr) : Prop :=
  (encode i).2.toNat < 2 ^ (encode i).1.width

theorem toNat_setWidth_lt {n : Nat} (x : BitVec n) : (x.setWidth 16).toNat < 2 ^ n := by
  rw [BitVec.toNat_setWidth]
  exact Nat.lt_of_le_of_lt (Nat.mod_le _ _) x.isLt

theorem Laws.WordFits.cgrRead (bank : BitVec 1) (glyph : BitVec 7) (line : BitVec 4) :
    Laws.WordFits.Statement (.cgrRead bank glyph line) := toNat_setWidth_lt _
theorem Laws.WordFits.rprResolve (y : BitVec 5) : Laws.WordFits.Statement (.rprResolve y) :=
  toNat_setWidth_lt _
theorem Laws.WordFits.apProcess (attr : Byte) : Laws.WordFits.Statement (.apProcess attr) :=
  toNat_setWidth_lt _
theorem Laws.WordFits.apAltfont (attr : Byte) : Laws.WordFits.Statement (.apAltfont attr) :=
  toNat_setWidth_lt _
theorem Laws.WordFits.apDim (attr : Byte) : Laws.WordFits.Statement (.apDim attr) :=
  toNat_setWidth_lt _
theorem Laws.WordFits.apConceal (attr : Byte) : Laws.WordFits.Statement (.apConceal attr) :=
  toNat_setWidth_lt _
theorem Laws.WordFits.apRsvd3 (attr : Byte) : Laws.WordFits.Statement (.apRsvd3 attr) :=
  toNat_setWidth_lt _
theorem Laws.WordFits.apUnderline (attr : Byte) : Laws.WordFits.Statement (.apUnderline attr) :=
  toNat_setWidth_lt _
theorem Laws.WordFits.apReverse (attr : Byte) : Laws.WordFits.Statement (.apReverse attr) :=
  toNat_setWidth_lt _
theorem Laws.WordFits.apRsvd6 (attr : Byte) : Laws.WordFits.Statement (.apRsvd6 attr) :=
  toNat_setWidth_lt _
theorem Laws.WordFits.apRsvd7 (attr : Byte) : Laws.WordFits.Statement (.apRsvd7 attr) :=
  toNat_setWidth_lt _
theorem Laws.WordFits.grLookup (code : Byte) (bank : BitVec 1) (scan : BitVec 4) :
    Laws.WordFits.Statement (.grLookup code bank scan) := toNat_setWidth_lt _
theorem Laws.WordFits.grExpand (p : Byte) : Laws.WordFits.Statement (.grExpand p) :=
  toNat_setWidth_lt _
theorem Laws.WordFits.fcIdle : Laws.WordFits.Statement .fcIdle := by
  unfold Laws.WordFits.Statement; decide
theorem Laws.WordFits.fcRowHi : Laws.WordFits.Statement .fcRowHi := by
  unfold Laws.WordFits.Statement; decide
theorem Laws.WordFits.fcRowLo : Laws.WordFits.Statement .fcRowLo := by
  unfold Laws.WordFits.Statement; decide
theorem Laws.WordFits.fcCellAttr : Laws.WordFits.Statement .fcCellAttr := by
  unfold Laws.WordFits.Statement; decide
theorem Laws.WordFits.fcCellCode : Laws.WordFits.Statement .fcCellCode := by
  unfold Laws.WordFits.Statement; decide
theorem Laws.WordFits.fcRenderFrame : Laws.WordFits.Statement .fcRenderFrame := by
  unfold Laws.WordFits.Statement; decide

end Sys2Proof
end

