-- ==== Sys2Proof/Laws/Decode.lean ====
section
/-! SUPPORT. Small lemmas of the decoder and the encoder: a word that fits is its fields, and a field read
back from where it was put. -/

namespace Sys2Proof

theorem decode_of_fits {site : Site} {w : BitVec 16} (h : w.toNat < 2 ^ site.width) :
    decode site w = decodeFields site w :=
  if_pos h

theorem decode_of_wide {site : Site} {w : BitVec 16} (h : ¬ w.toNat < 2 ^ site.width) :
    decode site w = .error .wordTooWide :=
  if_neg h

theorem fits_of_decode {site : Site} {w : BitVec 16} {i : Instr} (h : decode site w = .ok i) :
    w.toNat < 2 ^ site.width := by
  by_contra hn
  rw [decode_of_wide hn] at h
  cases h

theorem extractLsb'_setWidth {n : Nat} (h : n ≤ 16) (x : BitVec n) :
    (x.setWidth 16).extractLsb' 0 n = x := by
  apply BitVec.eq_of_getLsbD_eq
  intro i hi
  simp [hi]
  omega

theorem setWidth_extractLsb' {n : Nat} {w : BitVec 16} (h : w.toNat < 2 ^ n) :
    (w.extractLsb' 0 n).setWidth 16 = w := by
  apply BitVec.eq_of_toNat_eq
  rw [BitVec.toNat_setWidth, BitVec.extractLsb'_toNat, Nat.shiftRight_zero, Nat.mod_eq_of_lt h,
    Nat.mod_eq_of_lt w.isLt]

end Sys2Proof
end

