-- ==== Sys2Proof/Laws/Memory.lean ====
section
/-! SUPPORT. The laws of the sparse memory: read after write, the canonical form kept by every operation,
and equal canonical memories being equal data. -/

namespace Sys2Proof.Machine

variable {α : Type} [DecidableEq α]

/-! ### Read after write -/

theorem Memory.read_insert (d : α) (m : List (Nat × α)) (a b : Nat) (v : α) :
    Memory.read d (Memory.insert m a v) b = if b = a then v else Memory.read d m b := by
  induction m with
  | nil => simp [Memory.insert, Memory.read]
  | cons c m ih =>
    obtain ⟨k, u⟩ := c
    simp only [Memory.insert]
    split
    · simp [Memory.read]
    · split
      · subst_vars; simp only [Memory.read]; split <;> rfl
      · simp only [Memory.read, ih]; split
        · split
          · omega
          · rfl
        · rfl

theorem Memory.read_erase (d : α) (m : List (Nat × α)) (a b : Nat) :
    Memory.read d (Memory.erase m a) b = if b = a then d else Memory.read d m b := by
  induction m with
  | nil => simp [Memory.erase, Memory.read]
  | cons c m ih =>
    obtain ⟨k, u⟩ := c
    simp only [Memory.erase]
    split
    · subst_vars; simp only [ih, Memory.read]; split <;> simp_all
    · simp only [Memory.read, ih]; split
      · split
        · omega
        · rfl
      · rfl

/-- A read after a write: the value at the address written, and every other address as before. -/
theorem Memory.read_write (d : α) (m : List (Nat × α)) (a b : Nat) (v : α) :
    Memory.read d (Memory.write d m a v) b = if b = a then v else Memory.read d m b := by
  unfold Memory.write
  split
  · subst_vars; exact Memory.read_erase _ m a b
  · exact Memory.read_insert d m a b v

@[simp] theorem Memory.read_write_self (d : α) (m : List (Nat × α)) (a : Nat) (v : α) :
    Memory.read d (Memory.write d m a v) a = v := by
  simp [Memory.read_write]

theorem Memory.read_write_other (d : α) (m : List (Nat × α)) (a b : Nat) (v : α) (h : b ≠ a) :
    Memory.read d (Memory.write d m a v) b = Memory.read d m b := by
  simp [Memory.read_write, h]

omit [DecidableEq α] in
@[simp] theorem Memory.read_nil (d : α) (a : Nat) : Memory.read d [] a = d := rfl

/-! ### The canonical form -/

theorem Memory.wfFrom_cons {d : α} {size low a : Nat} {v : α} {m : List (Nat × α)} :
    Memory.wfFrom d size low ((a, v) :: m) = true ↔
      low ≤ a ∧ a < size ∧ v ≠ d ∧ Memory.wfFrom d size (a + 1) m = true := by
  simp [Memory.wfFrom, and_assoc]

theorem Memory.wfFrom_mono {d : α} {size lo hi : Nat} {m : List (Nat × α)} (h : lo ≤ hi)
    (hm : Memory.wfFrom d size hi m = true) : Memory.wfFrom d size lo m = true := by
  cases m with
  | nil => rfl
  | cons c m =>
    obtain ⟨k, u⟩ := c
    rw [Memory.wfFrom_cons] at hm ⊢
    exact ⟨by omega, hm.2⟩

theorem Memory.wfFrom_insert {d : α} {size low a : Nat} {v : α} {m : List (Nat × α)}
    (hm : Memory.wfFrom d size low m = true) (hl : low ≤ a) (ha : a < size) (hv : v ≠ d) :
    Memory.wfFrom d size low (Memory.insert m a v) = true := by
  induction m generalizing low with
  | nil => exact Memory.wfFrom_cons.2 ⟨hl, ha, hv, rfl⟩
  | cons c m ih =>
    obtain ⟨k, u⟩ := c
    have hc := Memory.wfFrom_cons.1 hm
    simp only [Memory.insert]
    split
    · exact Memory.wfFrom_cons.2 ⟨hl, ha, hv, Memory.wfFrom_cons.2 ⟨by omega, hc.2⟩⟩
    · split
      · subst_vars; exact Memory.wfFrom_cons.2 ⟨hl, ha, hv, hc.2.2.2⟩
      · exact Memory.wfFrom_cons.2 ⟨hc.1, hc.2.1, hc.2.2.1, ih hc.2.2.2 (by omega)⟩

theorem Memory.wfFrom_erase {d : α} {size low a : Nat} {m : List (Nat × α)}
    (hm : Memory.wfFrom d size low m = true) : Memory.wfFrom d size low (Memory.erase m a) = true := by
  induction m generalizing low with
  | nil => rfl
  | cons c m ih =>
    obtain ⟨k, u⟩ := c
    have hc := Memory.wfFrom_cons.1 hm
    simp only [Memory.erase]
    split
    · exact Memory.wfFrom_mono (by omega) (ih hc.2.2.2)
    · exact Memory.wfFrom_cons.2 ⟨hc.1, hc.2.1, hc.2.2.1, ih hc.2.2.2⟩

/-- A write inside the memory keeps the canonical form. -/
theorem Memory.wf_write {d : α} {size a : Nat} {v : α} {m : List (Nat × α)}
    (hm : Memory.wf d size m = true) (ha : a < size) : Memory.wf d size (Memory.write d m a v) = true := by
  unfold Memory.write
  split
  · exact Memory.wfFrom_erase hm
  · exact Memory.wfFrom_insert hm (Nat.zero_le a) ha ‹_›

theorem Memory.wfFrom_tabulateFrom (d : α) (f : Nat → α) (size low n : Nat) (h : low + n ≤ size) :
    Memory.wfFrom d size low (Memory.tabulateFrom d f low n) = true := by
  induction n generalizing low with
  | zero => rfl
  | succ n ih =>
    simp only [Memory.tabulateFrom]
    split
    · exact Memory.wfFrom_mono (by omega) (ih (low + 1) (by omega))
    · exact Memory.wfFrom_cons.2 ⟨le_refl _, by omega, ‹_›, ih (low + 1) (by omega)⟩

/-- A tabulated memory has the canonical form. -/
theorem Memory.wf_tabulate (d : α) (size : Nat) (f : Nat → α) :
    Memory.wf d size (Memory.tabulate d size f) = true :=
  Memory.wfFrom_tabulateFrom d f size 0 size (by omega)

theorem Memory.read_tabulateFrom (d : α) (f : Nat → α) (low n a : Nat) :
    Memory.read d (Memory.tabulateFrom d f low n) a = if low ≤ a ∧ a < low + n then f a else d := by
  induction n generalizing low with
  | zero => rw [if_neg (by omega)]; rfl
  | succ n ih =>
    simp only [Memory.tabulateFrom]
    split
    · rw [ih]; by_cases h : a = low
      · subst h; simp [*]
      · simp only [show (low + 1 ≤ a ∧ a < low + 1 + n) ↔ (low ≤ a ∧ a < low + (n + 1)) by omega]
    · simp only [Memory.read]
      split
      · subst_vars; simp
      · rw [ih]
        simp only [show (low + 1 ≤ a ∧ a < low + 1 + n) ↔ (low ≤ a ∧ a < low + (n + 1)) by omega]

/-- A tabulated memory reads as its function inside, and as the unlisted value outside. -/
theorem Memory.read_tabulate (d : α) (size : Nat) (f : Nat → α) (a : Nat) :
    Memory.read d (Memory.tabulate d size f) a = if a < size then f a else d := by
  simp [Memory.tabulate, Memory.read_tabulateFrom]

/-! ### Equal memories are equal data -/

theorem Memory.read_below {d : α} {size low a : Nat} {m : List (Nat × α)}
    (hm : Memory.wfFrom d size low m = true) (h : a < low) : Memory.read d m a = d := by
  induction m generalizing low with
  | nil => rfl
  | cons c m ih =>
    obtain ⟨k, u⟩ := c
    have hc := Memory.wfFrom_cons.1 hm
    simp only [Memory.read]
    rw [if_neg (by omega)]
    exact ih hc.2.2.2 (by omega)

theorem Memory.ext_from {d : α} {size low : Nat} {m n : List (Nat × α)}
    (hm : Memory.wfFrom d size low m = true) (hn : Memory.wfFrom d size low n = true)
    (h : ∀ a, Memory.read d m a = Memory.read d n a) : m = n := by
  induction m generalizing low n with
  | nil =>
    cases n with
    | nil => rfl
    | cons c n =>
      obtain ⟨k, u⟩ := c
      have hc := Memory.wfFrom_cons.1 hn
      have := h k
      simp [Memory.read] at this
      exact absurd this.symm hc.2.2.1
  | cons c m ih =>
    obtain ⟨k, u⟩ := c
    have hc := Memory.wfFrom_cons.1 hm
    cases n with
    | nil =>
      have := h k
      simp [Memory.read] at this
      exact absurd this hc.2.2.1
    | cons e n =>
      obtain ⟨l, w⟩ := e
      have he := Memory.wfFrom_cons.1 hn
      have hk : k = l := by
        rcases Nat.lt_trichotomy k l with hkl | hkl | hkl
        · have := h k
          simp only [Memory.read, if_true, if_neg (Nat.ne_of_lt hkl)] at this
          rw [Memory.read_below he.2.2.2 (by omega)] at this
          exact absurd this hc.2.2.1
        · exact hkl
        · have := h l
          simp only [Memory.read, if_true, if_neg (Nat.ne_of_lt hkl)] at this
          rw [Memory.read_below hc.2.2.2 (by omega)] at this
          exact absurd this.symm he.2.2.1
      subst hk
      have hu : u = w := by simpa [Memory.read] using h k
      subst hu
      rw [ih hc.2.2.2 he.2.2.2]
      intro a
      by_cases ha : a = k
      · subst ha
        rw [Memory.read_below hc.2.2.2 (by omega), Memory.read_below he.2.2.2 (by omega)]
      · simpa [Memory.read, ha] using h a

/-- Beyond its size a canonical memory reads as an unlisted address does. -/
theorem Memory.read_above {d : α} {size low a : Nat} {m : List (Nat × α)}
    (hm : Memory.wfFrom d size low m = true) (h : size ≤ a) : Memory.read d m a = d := by
  induction m generalizing low with
  | nil => rfl
  | cons e m ih =>
    obtain ⟨k, u⟩ := e
    rw [Memory.wfFrom_cons] at hm
    rw [Memory.read, if_neg (by omega), ih hm.2.2.2]

/-- Two canonical memories that read the same at every address are the same list. -/
theorem Memory.ext {d : α} {size : Nat} {m n : List (Nat × α)} (hm : Memory.wf d size m = true)
    (hn : Memory.wf d size n = true) (h : ∀ a, Memory.read d m a = Memory.read d n a) : m = n :=
  Memory.ext_from hm hn h

end Sys2Proof.Machine
end

