-- ==== Sys2Proof/Laws/State.lean ====
section
/-! SUPPORT. One lemma per field per update of State, each true by rfl, so that no later proof unfolds a
record update. -/

namespace Sys2Proof.Machine

variable (s : State)

/-! ### a VRAM read on the ports -/

@[simp] theorem State.noteVRead_state (a : Int) : (s.noteVRead a).state = s.state := rfl
@[simp] theorem State.noteVRead_row (a : Int) : (s.noteVRead a).row = s.row := rfl
@[simp] theorem State.noteVRead_scan (a : Int) : (s.noteVRead a).scan = s.scan := rfl
@[simp] theorem State.noteVRead_col (a : Int) : (s.noteVRead a).col = s.col := rfl
@[simp] theorem State.noteVRead_rowStart (a : Int) : (s.noteVRead a).rowStart = s.rowStart := rfl
@[simp] theorem State.noteVRead_ptrHi (a : Int) : (s.noteVRead a).ptrHi = s.ptrHi := rfl
@[simp] theorem State.noteVRead_attrL (a : Int) : (s.noteVRead a).attrL = s.attrL := rfl
@[simp] theorem State.noteVRead_vram (a : Int) : (s.noteVRead a).vram = s.vram := rfl
@[simp] theorem State.noteVRead_cgrom (a : Int) : (s.noteVRead a).cgrom = s.cgrom := rfl
@[simp] theorem State.noteVRead_fb (a : Int) : (s.noteVRead a).fb = s.fb := rfl
@[simp] theorem State.noteVRead_tableBase (a : Int) : (s.noteVRead a).tableBase = s.tableBase := rfl
@[simp] theorem State.noteVRead_ports (a : Int) :
    (s.noteVRead a).ports =
      { s.ports with vramReads := s.ports.vramReads ++ [(vaddr a, s.vread a)] } := rfl
@[simp] theorem State.noteVRead_nets (a : Int) : (s.noteVRead a).nets = s.nets := rfl
@[simp] theorem State.noteVRead_inputs (a : Int) : (s.noteVRead a).inputs = s.inputs := rfl
@[simp] theorem State.noteVRead_draws (a : Int) : (s.noteVRead a).draws = s.draws := rfl

/-! ### a host write -/

@[simp] theorem State.hostWrite_state (o : Offset) (b : Byte) : (s.hostWrite o b).state = s.state := rfl
@[simp] theorem State.hostWrite_row (o : Offset) (b : Byte) : (s.hostWrite o b).row = s.row := rfl
@[simp] theorem State.hostWrite_scan (o : Offset) (b : Byte) : (s.hostWrite o b).scan = s.scan := rfl
@[simp] theorem State.hostWrite_col (o : Offset) (b : Byte) : (s.hostWrite o b).col = s.col := rfl
@[simp] theorem State.hostWrite_rowStart (o : Offset) (b : Byte) :
    (s.hostWrite o b).rowStart =
      s.rowStart := rfl
@[simp] theorem State.hostWrite_ptrHi (o : Offset) (b : Byte) : (s.hostWrite o b).ptrHi = s.ptrHi := rfl
@[simp] theorem State.hostWrite_attrL (o : Offset) (b : Byte) : (s.hostWrite o b).attrL = s.attrL := rfl
@[simp] theorem State.hostWrite_vram (o : Offset) (b : Byte) :
    (s.hostWrite o b).vram =
      vramStore s.vram o b := rfl
@[simp] theorem State.hostWrite_cgrom (o : Offset) (b : Byte) : (s.hostWrite o b).cgrom = s.cgrom := rfl
@[simp] theorem State.hostWrite_fb (o : Offset) (b : Byte) : (s.hostWrite o b).fb = s.fb := rfl
@[simp] theorem State.hostWrite_tableBase (o : Offset) (b : Byte) :
    (s.hostWrite o b).tableBase =
      s.tableBase := rfl
@[simp] theorem State.hostWrite_ports (o : Offset) (b : Byte) : (s.hostWrite o b).ports = s.ports := rfl
@[simp] theorem State.hostWrite_nets (o : Offset) (b : Byte) : (s.hostWrite o b).nets = s.nets := rfl
@[simp] theorem State.hostWrite_inputs (o : Offset) (b : Byte) : (s.hostWrite o b).inputs = s.inputs := rfl
@[simp] theorem State.hostWrite_draws (o : Offset) (b : Byte) : (s.hostWrite o b).draws = s.draws := rfl

/-! ### the resolver's reads and result -/

@[simp] theorem State.resolveRow_state (y : Nat) : (s.resolveRow y).state = s.state := rfl
@[simp] theorem State.resolveRow_row (y : Nat) : (s.resolveRow y).row = s.row := rfl
@[simp] theorem State.resolveRow_scan (y : Nat) : (s.resolveRow y).scan = s.scan := rfl
@[simp] theorem State.resolveRow_col (y : Nat) : (s.resolveRow y).col = s.col := rfl
@[simp] theorem State.resolveRow_rowStart (y : Nat) : (s.resolveRow y).rowStart = s.resolve y := rfl
@[simp] theorem State.resolveRow_ptrHi (y : Nat) : (s.resolveRow y).ptrHi = s.ptrHi := rfl
@[simp] theorem State.resolveRow_attrL (y : Nat) : (s.resolveRow y).attrL = s.attrL := rfl
@[simp] theorem State.resolveRow_vram (y : Nat) : (s.resolveRow y).vram = s.vram := rfl
@[simp] theorem State.resolveRow_cgrom (y : Nat) : (s.resolveRow y).cgrom = s.cgrom := rfl
@[simp] theorem State.resolveRow_fb (y : Nat) : (s.resolveRow y).fb = s.fb := rfl
@[simp] theorem State.resolveRow_tableBase (y : Nat) : (s.resolveRow y).tableBase = s.tableBase := rfl
@[simp] theorem State.resolveRow_nets (y : Nat) : (s.resolveRow y).nets = s.nets := rfl
@[simp] theorem State.resolveRow_inputs (y : Nat) : (s.resolveRow y).inputs = s.inputs := rfl
@[simp] theorem State.resolveRow_draws (y : Nat) : (s.resolveRow y).draws = s.draws := rfl

/-! ### a CG ROM read -/

@[simp] theorem State.cgRead_state (a : CgAddr) : (s.cgRead a).state = s.state := rfl
@[simp] theorem State.cgRead_row (a : CgAddr) : (s.cgRead a).row = s.row := rfl
@[simp] theorem State.cgRead_scan (a : CgAddr) : (s.cgRead a).scan = s.scan := rfl
@[simp] theorem State.cgRead_col (a : CgAddr) : (s.cgRead a).col = s.col := rfl
@[simp] theorem State.cgRead_rowStart (a : CgAddr) : (s.cgRead a).rowStart = s.rowStart := rfl
@[simp] theorem State.cgRead_ptrHi (a : CgAddr) : (s.cgRead a).ptrHi = s.ptrHi := rfl
@[simp] theorem State.cgRead_attrL (a : CgAddr) : (s.cgRead a).attrL = s.attrL := rfl
@[simp] theorem State.cgRead_vram (a : CgAddr) : (s.cgRead a).vram = s.vram := rfl
@[simp] theorem State.cgRead_cgrom (a : CgAddr) : (s.cgRead a).cgrom = s.cgrom := rfl
@[simp] theorem State.cgRead_fb (a : CgAddr) : (s.cgRead a).fb = s.fb := rfl
@[simp] theorem State.cgRead_tableBase (a : CgAddr) : (s.cgRead a).tableBase = s.tableBase := rfl
@[simp] theorem State.cgRead_ports (a : CgAddr) :
    (s.cgRead a).ports =
      { s.ports with cgRead := some (a, cgByte s.cgrom a) } := rfl
@[simp] theorem State.cgRead_nets (a : CgAddr) :
    (s.cgRead a).nets =
      { s.nets with cgAddr := a, rom := cgByte s.cgrom a } := rfl
@[simp] theorem State.cgRead_inputs (a : CgAddr) : (s.cgRead a).inputs = s.inputs := rfl
@[simp] theorem State.cgRead_draws (a : CgAddr) : (s.cgRead a).draws = s.draws := rfl

/-! ### the bank offset -/

@[simp] theorem State.selectBank_state (bank : Bool) : (s.selectBank bank).state = s.state := rfl
@[simp] theorem State.selectBank_row (bank : Bool) : (s.selectBank bank).row = s.row := rfl
@[simp] theorem State.selectBank_scan (bank : Bool) : (s.selectBank bank).scan = s.scan := rfl
@[simp] theorem State.selectBank_col (bank : Bool) : (s.selectBank bank).col = s.col := rfl
@[simp] theorem State.selectBank_rowStart (bank : Bool) : (s.selectBank bank).rowStart = s.rowStart := rfl
@[simp] theorem State.selectBank_ptrHi (bank : Bool) : (s.selectBank bank).ptrHi = s.ptrHi := rfl
@[simp] theorem State.selectBank_attrL (bank : Bool) : (s.selectBank bank).attrL = s.attrL := rfl
@[simp] theorem State.selectBank_vram (bank : Bool) : (s.selectBank bank).vram = s.vram := rfl
@[simp] theorem State.selectBank_cgrom (bank : Bool) : (s.selectBank bank).cgrom = s.cgrom := rfl
@[simp] theorem State.selectBank_fb (bank : Bool) : (s.selectBank bank).fb = s.fb := rfl
@[simp] theorem State.selectBank_tableBase (bank : Bool) : (s.selectBank bank).tableBase = s.tableBase := rfl
@[simp] theorem State.selectBank_ports (bank : Bool) : (s.selectBank bank).ports = s.ports := rfl
@[simp] theorem State.selectBank_nets (bank : Bool) :
    (s.selectBank bank).nets =
      { s.nets with bankOffset := bankOffsetOf bank } := rfl
@[simp] theorem State.selectBank_inputs (bank : Bool) : (s.selectBank bank).inputs = s.inputs := rfl
@[simp] theorem State.selectBank_draws (bank : Bool) : (s.selectBank bank).draws = s.draws := rfl

/-! ### a glyph lookup -/

@[simp] theorem State.glyphLookup_state (code : Byte) (bank : Bool) (scan : BitVec 4) :
    (s.glyphLookup code bank scan).state =
      s.state := rfl
@[simp] theorem State.glyphLookup_row (code : Byte) (bank : Bool) (scan : BitVec 4) :
    (s.glyphLookup code bank scan).row =
      s.row := rfl
@[simp] theorem State.glyphLookup_scan (code : Byte) (bank : Bool) (scan : BitVec 4) :
    (s.glyphLookup code bank scan).scan =
      s.scan := rfl
@[simp] theorem State.glyphLookup_col (code : Byte) (bank : Bool) (scan : BitVec 4) :
    (s.glyphLookup code bank scan).col =
      s.col := rfl
@[simp] theorem State.glyphLookup_rowStart (code : Byte) (bank : Bool) (scan : BitVec 4) :
    (s.glyphLookup code bank scan).rowStart =
      s.rowStart := rfl
@[simp] theorem State.glyphLookup_ptrHi (code : Byte) (bank : Bool) (scan : BitVec 4) :
    (s.glyphLookup code bank scan).ptrHi =
      s.ptrHi := rfl
@[simp] theorem State.glyphLookup_attrL (code : Byte) (bank : Bool) (scan : BitVec 4) :
    (s.glyphLookup code bank scan).attrL =
      s.attrL := rfl
@[simp] theorem State.glyphLookup_vram (code : Byte) (bank : Bool) (scan : BitVec 4) :
    (s.glyphLookup code bank scan).vram =
      s.vram := rfl
@[simp] theorem State.glyphLookup_cgrom (code : Byte) (bank : Bool) (scan : BitVec 4) :
    (s.glyphLookup code bank scan).cgrom =
      s.cgrom := rfl
@[simp] theorem State.glyphLookup_fb (code : Byte) (bank : Bool) (scan : BitVec 4) :
    (s.glyphLookup code bank scan).fb =
      s.fb := rfl
@[simp] theorem State.glyphLookup_tableBase (code : Byte) (bank : Bool) (scan : BitVec 4) :
    (s.glyphLookup code bank scan).tableBase =
      s.tableBase := rfl
@[simp] theorem State.glyphLookup_inputs (code : Byte) (bank : Bool) (scan : BitVec 4) :
    (s.glyphLookup code bank scan).inputs =
      s.inputs := rfl
@[simp] theorem State.glyphLookup_draws (code : Byte) (bank : Bool) (scan : BitVec 4) :
    (s.glyphLookup code bank scan).draws =
      s.draws := rfl

/-! ### underline_override -/

@[simp] theorem State.underlineStage_state (attr : Byte) : (s.underlineStage attr).state = s.state := rfl
@[simp] theorem State.underlineStage_row (attr : Byte) : (s.underlineStage attr).row = s.row := rfl
@[simp] theorem State.underlineStage_scan (attr : Byte) : (s.underlineStage attr).scan = s.scan := rfl
@[simp] theorem State.underlineStage_col (attr : Byte) : (s.underlineStage attr).col = s.col := rfl
@[simp] theorem State.underlineStage_rowStart (attr : Byte) :
    (s.underlineStage attr).rowStart =
      s.rowStart := rfl
@[simp] theorem State.underlineStage_ptrHi (attr : Byte) : (s.underlineStage attr).ptrHi = s.ptrHi := rfl
@[simp] theorem State.underlineStage_attrL (attr : Byte) : (s.underlineStage attr).attrL = s.attrL := rfl
@[simp] theorem State.underlineStage_vram (attr : Byte) : (s.underlineStage attr).vram = s.vram := rfl
@[simp] theorem State.underlineStage_cgrom (attr : Byte) : (s.underlineStage attr).cgrom = s.cgrom := rfl
@[simp] theorem State.underlineStage_fb (attr : Byte) : (s.underlineStage attr).fb = s.fb := rfl
@[simp] theorem State.underlineStage_tableBase (attr : Byte) :
    (s.underlineStage attr).tableBase =
      s.tableBase := rfl
@[simp] theorem State.underlineStage_ports (attr : Byte) : (s.underlineStage attr).ports = s.ports := rfl
@[simp] theorem State.underlineStage_nets (attr : Byte) :
    (s.underlineStage attr).nets =
      { s.nets with pattern := underlineOverride attr s.nets.rom (isFinalScanline s.scan) } := rfl
@[simp] theorem State.underlineStage_inputs (attr : Byte) : (s.underlineStage attr).inputs = s.inputs := rfl
@[simp] theorem State.underlineStage_draws (attr : Byte) : (s.underlineStage attr).draws = s.draws := rfl

/-! ### dim -/

@[simp] theorem State.dimStage_state (attr : Byte) : (s.dimStage attr).state = s.state := rfl
@[simp] theorem State.dimStage_row (attr : Byte) : (s.dimStage attr).row = s.row := rfl
@[simp] theorem State.dimStage_scan (attr : Byte) : (s.dimStage attr).scan = s.scan := rfl
@[simp] theorem State.dimStage_col (attr : Byte) : (s.dimStage attr).col = s.col := rfl
@[simp] theorem State.dimStage_rowStart (attr : Byte) : (s.dimStage attr).rowStart = s.rowStart := rfl
@[simp] theorem State.dimStage_ptrHi (attr : Byte) : (s.dimStage attr).ptrHi = s.ptrHi := rfl
@[simp] theorem State.dimStage_attrL (attr : Byte) : (s.dimStage attr).attrL = s.attrL := rfl
@[simp] theorem State.dimStage_vram (attr : Byte) : (s.dimStage attr).vram = s.vram := rfl
@[simp] theorem State.dimStage_cgrom (attr : Byte) : (s.dimStage attr).cgrom = s.cgrom := rfl
@[simp] theorem State.dimStage_fb (attr : Byte) : (s.dimStage attr).fb = s.fb := rfl
@[simp] theorem State.dimStage_tableBase (attr : Byte) : (s.dimStage attr).tableBase = s.tableBase := rfl
@[simp] theorem State.dimStage_ports (attr : Byte) : (s.dimStage attr).ports = s.ports := rfl
@[simp] theorem State.dimStage_nets (attr : Byte) :
    (s.dimStage attr).nets =
      { s.nets with fg := dimForeground attr } := rfl
@[simp] theorem State.dimStage_inputs (attr : Byte) : (s.dimStage attr).inputs = s.inputs := rfl
@[simp] theorem State.dimStage_draws (attr : Byte) : (s.dimStage attr).draws = s.draws := rfl

/-! ### the background -/

@[simp] theorem State.backgroundStage_state : s.backgroundStage.state = s.state := rfl
@[simp] theorem State.backgroundStage_row : s.backgroundStage.row = s.row := rfl
@[simp] theorem State.backgroundStage_scan : s.backgroundStage.scan = s.scan := rfl
@[simp] theorem State.backgroundStage_col : s.backgroundStage.col = s.col := rfl
@[simp] theorem State.backgroundStage_rowStart : s.backgroundStage.rowStart = s.rowStart := rfl
@[simp] theorem State.backgroundStage_ptrHi : s.backgroundStage.ptrHi = s.ptrHi := rfl
@[simp] theorem State.backgroundStage_attrL : s.backgroundStage.attrL = s.attrL := rfl
@[simp] theorem State.backgroundStage_vram : s.backgroundStage.vram = s.vram := rfl
@[simp] theorem State.backgroundStage_cgrom : s.backgroundStage.cgrom = s.cgrom := rfl
@[simp] theorem State.backgroundStage_fb : s.backgroundStage.fb = s.fb := rfl
@[simp] theorem State.backgroundStage_tableBase : s.backgroundStage.tableBase = s.tableBase := rfl
@[simp] theorem State.backgroundStage_ports : s.backgroundStage.ports = s.ports := rfl
@[simp] theorem State.backgroundStage_nets :
    s.backgroundStage.nets =
      { s.nets with bg := cellBackground } := rfl
@[simp] theorem State.backgroundStage_inputs : s.backgroundStage.inputs = s.inputs := rfl
@[simp] theorem State.backgroundStage_draws : s.backgroundStage.draws = s.draws := rfl

/-! ### conceal -/

@[simp] theorem State.concealStage_state (attr : Byte) : (s.concealStage attr).state = s.state := rfl
@[simp] theorem State.concealStage_row (attr : Byte) : (s.concealStage attr).row = s.row := rfl
@[simp] theorem State.concealStage_scan (attr : Byte) : (s.concealStage attr).scan = s.scan := rfl
@[simp] theorem State.concealStage_col (attr : Byte) : (s.concealStage attr).col = s.col := rfl
@[simp] theorem State.concealStage_rowStart (attr : Byte) : (s.concealStage attr).rowStart = s.rowStart := rfl
@[simp] theorem State.concealStage_ptrHi (attr : Byte) : (s.concealStage attr).ptrHi = s.ptrHi := rfl
@[simp] theorem State.concealStage_attrL (attr : Byte) : (s.concealStage attr).attrL = s.attrL := rfl
@[simp] theorem State.concealStage_vram (attr : Byte) : (s.concealStage attr).vram = s.vram := rfl
@[simp] theorem State.concealStage_cgrom (attr : Byte) : (s.concealStage attr).cgrom = s.cgrom := rfl
@[simp] theorem State.concealStage_fb (attr : Byte) : (s.concealStage attr).fb = s.fb := rfl
@[simp] theorem State.concealStage_tableBase (attr : Byte) :
    (s.concealStage attr).tableBase =
      s.tableBase := rfl
@[simp] theorem State.concealStage_ports (attr : Byte) : (s.concealStage attr).ports = s.ports := rfl
@[simp] theorem State.concealStage_nets (attr : Byte) :
    (s.concealStage attr).nets =
      { s.nets with fg := concealForeground attr s.nets.fg s.nets.bg } := rfl
@[simp] theorem State.concealStage_inputs (attr : Byte) : (s.concealStage attr).inputs = s.inputs := rfl
@[simp] theorem State.concealStage_draws (attr : Byte) : (s.concealStage attr).draws = s.draws := rfl

/-! ### reverse_video_mux -/

@[simp] theorem State.reverseStage_state (attr : Byte) : (s.reverseStage attr).state = s.state := rfl
@[simp] theorem State.reverseStage_row (attr : Byte) : (s.reverseStage attr).row = s.row := rfl
@[simp] theorem State.reverseStage_scan (attr : Byte) : (s.reverseStage attr).scan = s.scan := rfl
@[simp] theorem State.reverseStage_col (attr : Byte) : (s.reverseStage attr).col = s.col := rfl
@[simp] theorem State.reverseStage_rowStart (attr : Byte) : (s.reverseStage attr).rowStart = s.rowStart := rfl
@[simp] theorem State.reverseStage_ptrHi (attr : Byte) : (s.reverseStage attr).ptrHi = s.ptrHi := rfl
@[simp] theorem State.reverseStage_attrL (attr : Byte) : (s.reverseStage attr).attrL = s.attrL := rfl
@[simp] theorem State.reverseStage_vram (attr : Byte) : (s.reverseStage attr).vram = s.vram := rfl
@[simp] theorem State.reverseStage_cgrom (attr : Byte) : (s.reverseStage attr).cgrom = s.cgrom := rfl
@[simp] theorem State.reverseStage_fb (attr : Byte) : (s.reverseStage attr).fb = s.fb := rfl
@[simp] theorem State.reverseStage_tableBase (attr : Byte) :
    (s.reverseStage attr).tableBase =
      s.tableBase := rfl
@[simp] theorem State.reverseStage_ports (attr : Byte) : (s.reverseStage attr).ports = s.ports := rfl
@[simp] theorem State.reverseStage_nets (attr : Byte) :
    (s.reverseStage attr).nets =
      { s.nets with pattern := reverseMux attr s.nets.pattern } := rfl
@[simp] theorem State.reverseStage_inputs (attr : Byte) : (s.reverseStage attr).inputs = s.inputs := rfl
@[simp] theorem State.reverseStage_draws (attr : Byte) : (s.reverseStage attr).draws = s.draws := rfl

/-! ### AttrProcess -/

@[simp] theorem State.attrProcess_state (attr : Byte) : (s.attrProcess attr).state = s.state := rfl
@[simp] theorem State.attrProcess_row (attr : Byte) : (s.attrProcess attr).row = s.row := rfl
@[simp] theorem State.attrProcess_scan (attr : Byte) : (s.attrProcess attr).scan = s.scan := rfl
@[simp] theorem State.attrProcess_col (attr : Byte) : (s.attrProcess attr).col = s.col := rfl
@[simp] theorem State.attrProcess_rowStart (attr : Byte) : (s.attrProcess attr).rowStart = s.rowStart := rfl
@[simp] theorem State.attrProcess_ptrHi (attr : Byte) : (s.attrProcess attr).ptrHi = s.ptrHi := rfl
@[simp] theorem State.attrProcess_attrL (attr : Byte) : (s.attrProcess attr).attrL = s.attrL := rfl
@[simp] theorem State.attrProcess_vram (attr : Byte) : (s.attrProcess attr).vram = s.vram := rfl
@[simp] theorem State.attrProcess_cgrom (attr : Byte) : (s.attrProcess attr).cgrom = s.cgrom := rfl
@[simp] theorem State.attrProcess_fb (attr : Byte) : (s.attrProcess attr).fb = s.fb := rfl
@[simp] theorem State.attrProcess_tableBase (attr : Byte) :
    (s.attrProcess attr).tableBase =
      s.tableBase := rfl
@[simp] theorem State.attrProcess_ports (attr : Byte) : (s.attrProcess attr).ports = s.ports := rfl
@[simp] theorem State.attrProcess_inputs (attr : Byte) : (s.attrProcess attr).inputs = s.inputs := rfl
@[simp] theorem State.attrProcess_draws (attr : Byte) : (s.attrProcess attr).draws = s.draws := rfl

/-! ### pixel_expander -/

@[simp] theorem State.expand_state (p : Byte) : (s.expand p).state = s.state := rfl
@[simp] theorem State.expand_row (p : Byte) : (s.expand p).row = s.row := rfl
@[simp] theorem State.expand_scan (p : Byte) : (s.expand p).scan = s.scan := rfl
@[simp] theorem State.expand_col (p : Byte) : (s.expand p).col = s.col := rfl
@[simp] theorem State.expand_rowStart (p : Byte) : (s.expand p).rowStart = s.rowStart := rfl
@[simp] theorem State.expand_ptrHi (p : Byte) : (s.expand p).ptrHi = s.ptrHi := rfl
@[simp] theorem State.expand_attrL (p : Byte) : (s.expand p).attrL = s.attrL := rfl
@[simp] theorem State.expand_vram (p : Byte) : (s.expand p).vram = s.vram := rfl
@[simp] theorem State.expand_cgrom (p : Byte) : (s.expand p).cgrom = s.cgrom := rfl
@[simp] theorem State.expand_fb (p : Byte) : (s.expand p).fb = s.fb := rfl
@[simp] theorem State.expand_tableBase (p : Byte) : (s.expand p).tableBase = s.tableBase := rfl
@[simp] theorem State.expand_ports (p : Byte) : (s.expand p).ports = s.ports := rfl
@[simp] theorem State.expand_nets (p : Byte) :
    (s.expand p).nets =
      { s.nets with pixels := expandPattern p s.nets.fg s.nets.bg } := rfl
@[simp] theorem State.expand_inputs (p : Byte) : (s.expand p).inputs = s.inputs := rfl
@[simp] theorem State.expand_draws (p : Byte) : (s.expand p).draws = s.draws := rfl

/-! ### the cell under the cursor drawn -/

@[simp] theorem State.drawCell_state : s.drawCell.state = s.state := rfl
@[simp] theorem State.drawCell_row : s.drawCell.row = s.row := rfl
@[simp] theorem State.drawCell_scan : s.drawCell.scan = s.scan := rfl
@[simp] theorem State.drawCell_col : s.drawCell.col = s.col := rfl
@[simp] theorem State.drawCell_rowStart : s.drawCell.rowStart = s.rowStart := rfl
@[simp] theorem State.drawCell_ptrHi : s.drawCell.ptrHi = s.ptrHi := rfl
@[simp] theorem State.drawCell_attrL : s.drawCell.attrL = s.attrL := rfl
@[simp] theorem State.drawCell_vram : s.drawCell.vram = s.vram := rfl
@[simp] theorem State.drawCell_cgrom : s.drawCell.cgrom = s.cgrom := rfl
@[simp] theorem State.drawCell_fb :
    s.drawCell.fb =
      fbCell s.fb s.row.toNat s.scan.toNat s.col.toNat
        (cellPixels s.cgrom s.attrL (s.vread (cellAddr s.rowStart s.col.toNat + 1)) s.scan) := rfl
@[simp] theorem State.drawCell_tableBase : s.drawCell.tableBase = s.tableBase := rfl
@[simp] theorem State.drawCell_nets :
    s.drawCell.nets =
      cellNets s.cgrom s.attrL (s.vread (cellAddr s.rowStart s.col.toNat + 1)) s.scan := rfl
@[simp] theorem State.drawCell_inputs : s.drawCell.inputs = s.inputs := rfl
@[simp] theorem State.drawCell_draws : s.drawCell.draws = s.draws := rfl

/-! ### the registers at a frame's last cell -/

@[simp] theorem State.atLastCell_state : s.atLastCell.state = fsmCellCode := rfl
@[simp] theorem State.atLastCell_row : s.atLastCell.row = 26 := rfl
@[simp] theorem State.atLastCell_scan : s.atLastCell.scan = 12 := rfl
@[simp] theorem State.atLastCell_col : s.atLastCell.col = 79 := rfl
@[simp] theorem State.atLastCell_rowStart : s.atLastCell.rowStart = s.resolve 26 := rfl
@[simp] theorem State.atLastCell_ptrHi : s.atLastCell.ptrHi = s.vread (slotAddr s.tableBase 26) := rfl
@[simp] theorem State.atLastCell_attrL : s.atLastCell.attrL = s.vread (cellAddr (s.resolve 26) 79) := rfl
@[simp] theorem State.atLastCell_vram : s.atLastCell.vram = s.vram := rfl
@[simp] theorem State.atLastCell_cgrom : s.atLastCell.cgrom = s.cgrom := rfl
@[simp] theorem State.atLastCell_fb : s.atLastCell.fb = s.fb := rfl
@[simp] theorem State.atLastCell_tableBase : s.atLastCell.tableBase = s.tableBase := rfl
@[simp] theorem State.atLastCell_ports : s.atLastCell.ports = s.ports := rfl
@[simp] theorem State.atLastCell_nets : s.atLastCell.nets = s.nets := rfl
@[simp] theorem State.atLastCell_inputs : s.atLastCell.inputs = s.inputs := rfl
@[simp] theorem State.atLastCell_draws : s.atLastCell.draws = s.draws := rfl

/-! ### the start of a step -/

@[simp] theorem State.beginStep_state (tick : Bool) (rest : List Input) :
    (s.beginStep tick rest).state =
      s.state := rfl
@[simp] theorem State.beginStep_row (tick : Bool) (rest : List Input) :
    (s.beginStep tick rest).row =
      s.row := rfl
@[simp] theorem State.beginStep_scan (tick : Bool) (rest : List Input) :
    (s.beginStep tick rest).scan =
      s.scan := rfl
@[simp] theorem State.beginStep_col (tick : Bool) (rest : List Input) :
    (s.beginStep tick rest).col =
      s.col := rfl
@[simp] theorem State.beginStep_rowStart (tick : Bool) (rest : List Input) :
    (s.beginStep tick rest).rowStart =
      s.rowStart := rfl
@[simp] theorem State.beginStep_ptrHi (tick : Bool) (rest : List Input) :
    (s.beginStep tick rest).ptrHi =
      s.ptrHi := rfl
@[simp] theorem State.beginStep_attrL (tick : Bool) (rest : List Input) :
    (s.beginStep tick rest).attrL =
      s.attrL := rfl
@[simp] theorem State.beginStep_vram (tick : Bool) (rest : List Input) :
    (s.beginStep tick rest).vram =
      s.vram := rfl
@[simp] theorem State.beginStep_cgrom (tick : Bool) (rest : List Input) :
    (s.beginStep tick rest).cgrom =
      s.cgrom := rfl
@[simp] theorem State.beginStep_fb (tick : Bool) (rest : List Input) :
    (s.beginStep tick rest).fb =
      s.fb := rfl
@[simp] theorem State.beginStep_tableBase (tick : Bool) (rest : List Input) :
    (s.beginStep tick rest).tableBase =
      s.tableBase := rfl
@[simp] theorem State.beginStep_ports (tick : Bool) (rest : List Input) :
    (s.beginStep tick rest).ports =
      Ports.quiet tick := rfl
@[simp] theorem State.beginStep_nets (tick : Bool) (rest : List Input) :
    (s.beginStep tick rest).nets =
      s.nets := rfl
@[simp] theorem State.beginStep_inputs (tick : Bool) (rest : List Input) :
    (s.beginStep tick rest).inputs =
      rest := rfl
@[simp] theorem State.beginStep_draws (tick : Bool) (rest : List Input) :
    (s.beginStep tick rest).draws =
      s.draws := rfl

/-! ### reset -/

@[simp] theorem State.assertReset_state : s.assertReset.state = fsmIdle := rfl
@[simp] theorem State.assertReset_vram : s.assertReset.vram = s.vram := rfl
@[simp] theorem State.assertReset_cgrom : s.assertReset.cgrom = s.cgrom := rfl
@[simp] theorem State.assertReset_tableBase : s.assertReset.tableBase = s.tableBase := rfl
@[simp] theorem State.assertReset_ports : s.assertReset.ports = s.ports := rfl
@[simp] theorem State.assertReset_nets : s.assertReset.nets = s.nets := rfl
@[simp] theorem State.assertReset_inputs : s.assertReset.inputs = s.inputs := rfl
@[simp] theorem State.assertReset_draws : s.assertReset.draws = s.draws + 1 := rfl

end Sys2Proof.Machine
end

