-- ==== Sys2Proof/Laws/Ops.lean ====
section
/-! SUPPORT. What each shared operation does, said once: address assembly in natural numbers, VRAM after a
host write, the framebuffer after a cell, the advance, and the whole-cell operation as the units' chain. -/

namespace Sys2Proof.Machine

/-! ### Addresses -/

theorem vaddr_toNat (a : Int) : (vaddr a).toNat = (a % 32768).toNat := by
  simp only [vaddr, Config.vramSize, BitVec.toNat_ofNat]
  omega

theorem vaddr_natCast (n : Nat) : (vaddr n).toNat = n % 32768 := by
  rw [vaddr_toNat]; omega

theorem slotAddr_eq (tableBase : Offset) (y : Nat) :
    slotAddr tableBase y = ((tableBase.toNat + 4 * (54 + y) : Nat) : Int) := by
  simp [slotAddr]

theorem cellAddr_eq (rowStart : Offset) (col : Nat) :
    cellAddr rowStart col = ((rowStart.toNat + 2 * col : Nat) : Int) := by
  simp [cellAddr]

theorem vread_natCast (s : State) (n : Nat) :
    s.vread n = Memory.read Config.vramUnlisted s.vram (n % 32768) := by
  simp only [State.vread, vaddr_natCast]

/-- The row pointer is high * 256 + low (R53, R132). -/
theorem rowPointer_toNat (hi lo : Byte) : (rowPointer hi lo).toNat = hi.toNat * 256 + lo.toNat := by
  have h := hi.isLt
  have l := lo.isLt
  simp only [rowPointer, BitVec.toNat_add, BitVec.toNat_shiftLeft, BitVec.toNat_setWidth, Nat.shiftLeft_eq]
  omega

/-- The row start is the pointer's low 15 bits (R84, R133). -/
theorem rowStartOf_toNat (ptr : BitVec 16) : (rowStartOf ptr).toNat = ptr.toNat % 32768 := by
  have h := ptr.isLt
  rw [rowStartOf, vaddr_toNat]
  simp only [Config.vramLogicalBase]
  omega

theorem cgAddrOfFields_getLsbD (bank : BitVec 1) (glyph : BitVec 7) (line : BitVec 4) (i : Nat) :
    (cgAddrOfFields bank glyph line).getLsbD i =
      if i < 4 then line.getLsbD i
      else if i - 4 < 7 then glyph.getLsbD (i - 4) else bank.getLsbD (i - 4 - 7) := by
  refine (BitVec.getLsbD_append (x := bank ++ glyph) (y := line)).trans ?_
  rw [BitVec.getLsbD_append]

/-- The CG address is the concatenation bank, code[6:0], scan (R85, R181). -/
theorem glyphAddr_eq (code : Byte) (bank : Bool) (scan : BitVec 4) :
    glyphAddr code (bankOffsetOf bank) scan =
      cgAddrOfFields (BitVec.ofBool bank) (code.extractLsb' 0 7) scan := by
  apply BitVec.eq_of_getLsbD_eq
  intro i hi
  rw [cgAddrOfFields_getLsbD]
  have : i < 12 := hi
  cases bank <;> interval_cases i <;> simp [glyphAddr, bankOffsetOf, Config.cgBankOffset]

/-! ### VRAM -/

/-- VRAM after a host write, at every offset (R64). -/
theorem vread_hostWrite (s : State) (o : Offset) (b : Byte) (a : Int) :
    (s.hostWrite o b).vread a = if vaddr a = o then b else s.vread a := by
  simp only [State.vread, State.hostWrite_vram, vramStore, Memory.read_write, BitVec.toNat_inj]

/-- VRead depends on the VRAM alone. -/
theorem vread_congr {s t : State} (h : s.vram = t.vram) (a : Int) : s.vread a = t.vread a := by
  simp only [State.vread, h]

theorem resolve_congr {s t : State} (hv : s.vram = t.vram) (hb : s.tableBase = t.tableBase) (y : Nat) :
    s.resolve y = t.resolve y := by
  simp only [State.resolve, vread_congr hv, hb]

/-! ### The attribute stages -/

theorem isFinalScanline_eq (scan : BitVec 4) : isFinalScanline scan = decide (scan = 12#4) := by
  revert scan; decide

theorem underlineOverride_final {attr : Byte} (rom : Byte) (h : attr.getLsbD 4 = true) :
    underlineOverride attr rom true = 0xFF#8 := by
  simp [underlineOverride, h]

theorem underlineOverride_inactive {attr : Byte} (rom : Byte) {final : Bool}
    (h : ¬ (attr.getLsbD 4 = true ∧ final = true)) : underlineOverride attr rom final = ~~~rom := by
  simp only [underlineOverride, Bool.and_eq_true]
  exact if_neg h

/-- AttrProcess looks at bits 1, 2, 4 and 5 only (R158). -/
theorem attrProcessFn_congr {a b : Byte} (rom : Byte) (final : Bool) (h1 : a.getLsbD 1 = b.getLsbD 1)
    (h2 : a.getLsbD 2 = b.getLsbD 2) (h4 : a.getLsbD 4 = b.getLsbD 4) (h5 : a.getLsbD 5 = b.getLsbD 5) :
    attrProcessFn a rom final = attrProcessFn b rom final := by
  simp only [attrProcessFn, reverseMux, underlineOverride, concealForeground, dimForeground, h1, h2, h4, h5]

/-- A pixel of the expander (R182). -/
theorem expandPattern_get (p : Byte) (fore back : Pixel) (k : Fin 9) :
    (expandPattern p fore back)[k] = if k.val < 8 ∧ p.getLsbD (7 - k.val) = true then fore else back := by
  fin_cases k <;> simp [expandPattern]

/-! ### The datapath as the units' chain -/

/-- AttrProcess is the five stages of R150 in their order. -/
theorem attrProcess_eq_stages (s : State) (attr : Byte) :
    s.attrProcess attr =
      ((((s.underlineStage attr).dimStage attr).backgroundStage).concealStage attr).reverseStage attr := by
  simp only [State.attrProcess, State.underlineStage, State.dimStage, State.backgroundStage,
    State.concealStage, State.reverseStage, attrProcessFn]

/-- The nets of a drawn cell are what the code read, GR.LOOKUP, AP.PROCESS and GR.EXPAND leave, one after
the other (R185, R208). -/
theorem drawCell_eq_units (s : State) :
    s.drawCell.nets =
      let code := s.vread (cellAddr s.rowStart s.col.toNat + 1)
      let looked := State.glyphLookup { s with nets.code := code } code (s.attrL.getLsbD 0) s.scan
      let processed := looked.attrProcess s.attrL
      (processed.expand processed.nets.pattern).nets := by
  simp only [State.drawCell, State.glyphLookup, State.selectBank, State.cgRead, State.attrProcess,
    State.expand, cellNets, cellPixels, glyphLookupFn]

/-! ### The framebuffer -/

theorem fbIndex_inj {x y x' y' : Nat} (hx : x < 720) (hx' : x' < 720) :
    fbIndex x y = fbIndex x' y' ↔ x = x' ∧ y = y' := by
  simp only [fbIndex, Config.fbWidth]
  omega

/-- One pixel write (R56). -/
theorem fbRead_fbSet (fb : List (Nat × Pixel)) {x y x' y' : Nat} (p : Pixel) (hx : x < 720)
    (hx' : x' < 720) :
    fbRead (fbSet fb x y p) x' y' = if x' = x ∧ y' = y then p else fbRead fb x' y' := by
  simp only [fbRead, fbSet, Memory.read_write, fbIndex_inj hx' hx]

/-- A run of pixels written inside one line. -/
theorem fbRead_fbRun (ps : List Pixel) (fb : List (Nat × Pixel)) (x y x' y' : Nat)
    (hx : x + ps.length ≤ 720) (hx' : x' < 720) :
    fbRead (fbRun fb x y ps) x' y' =
      if y' = y ∧ x ≤ x' ∧ x' < x + ps.length then ps.getD (x' - x) .bg else fbRead fb x' y' := by
  induction ps generalizing fb x with
  | nil => rw [if_neg (by simp only [List.length_nil]; omega)]; rfl
  | cons p ps ih =>
    simp only [List.length_cons] at hx
    rw [fbRun, ih _ (x + 1) (by omega), fbRead_fbSet _ _ (by omega) hx']
    by_cases hy : y' = y
    · by_cases hxx : x' = x
      · subst hxx; simp [hy]
      · by_cases h1 : x ≤ x' ∧ x' < x + (ps.length + 1)
        · obtain ⟨k, hk⟩ : ∃ k, x' - x = k + 1 := ⟨x' - x - 1, by omega⟩
          rw [if_pos (by omega), if_pos (by simp; omega), hk, show x' - (x + 1) = k by omega]
          simp
        · rw [if_neg (by omega), if_neg (by simp [hxx]), if_neg (by simp; omega)]
    · simp [hy]

/-- The framebuffer after one cell on one scanline: its nine positions hold its nine pixels, every other
position is as before (R202, R208). -/
theorem fbRead_fbCell (fb : List (Nat × Pixel)) (row scan col x y : Nat) (px : Vector Pixel 9)
    (hc : col < 80) (hx : x < 720) :
    fbRead (fbCell fb row scan col px) x y =
      if h : y = 13 * row + scan ∧ 9 * col ≤ x ∧ x < 9 * col + 9 then px[x - 9 * col]'(by omega)
      else fbRead fb x y := by
  have hl : px.toList.length = 9 := by simp
  rw [fbCell, fbRead_fbRun _ _ _ _ _ _ (by rw [hl]; simp only [cellX, Config.cellWidth]; omega) hx, hl]
  have cx : cellX col = 9 * col := rfl
  have cy : cellY row scan = 13 * row + scan := rfl
  by_cases h : y = 13 * row + scan ∧ 9 * col ≤ x ∧ x < 9 * col + 9
  · rw [dif_pos h, if_pos (by omega), cx, List.getD_eq_getElem?_getD,
      List.getElem?_eq_getElem (by rw [hl]; omega)]
    simp
  · rw [dif_neg h, if_neg (by omega)]

theorem wf_fbSet {fb : List (Nat × Pixel)} {x y : Nat} (p : Pixel)
    (hm : Memory.wf Config.fbUnlisted (720 * 351) fb = true) (hx : x < 720) (hy : y < 351) :
    Memory.wf Config.fbUnlisted (720 * 351) (fbSet fb x y p) = true :=
  Memory.wf_write hm (by simp only [fbIndex, Config.fbWidth]; omega)

theorem wf_fbRun (ps : List Pixel) {fb : List (Nat × Pixel)} {x y : Nat}
    (hm : Memory.wf Config.fbUnlisted (720 * 351) fb = true) (hx : x + ps.length ≤ 720) (hy : y < 351) :
    Memory.wf Config.fbUnlisted (720 * 351) (fbRun fb x y ps) = true := by
  induction ps generalizing fb x with
  | nil => exact hm
  | cons p ps ih =>
    simp only [List.length_cons] at hx
    exact ih (wf_fbSet p hm (by omega) hy) (by omega)

/-- A cell inside 720 x 351 keeps the framebuffer's canonical form. -/
theorem wf_fbCell {fb : List (Nat × Pixel)} {row scan col : Nat} (px : Vector Pixel 9)
    (hm : Memory.wf Config.fbUnlisted (720 * 351) fb = true) (hc : col < 80) (hy : 13 * row + scan < 351) :
    Memory.wf Config.fbUnlisted (720 * 351) (fbCell fb row scan col px) = true := by
  apply wf_fbRun _ hm
  · simp only [Vector.length_toList, cellX, Config.cellWidth]; omega
  · simpa only [cellY, Config.scanlines] using hy

/-- A host write keeps the VRAM's canonical form. -/
theorem wf_vramStore {vram : List Host.Cell} (o : Offset) (b : Byte)
    (hm : Memory.wf Config.vramUnlisted 0x8000 vram = true) :
    Memory.wf Config.vramUnlisted 0x8000 (vramStore vram o b) = true :=
  Memory.wf_write hm o.isLt

theorem foldl_keeps {β : Type} {P : List (Nat × Pixel) → Prop}
    {f : List (Nat × Pixel) → β → List (Nat × Pixel)} (l : List β) {fb : List (Nat × Pixel)} (h0 : P fb)
    (hs : ∀ fb, P fb → ∀ b ∈ l, P (f fb b)) : P (l.foldl f fb) := by
  induction l generalizing fb with
  | nil => exact h0
  | cons a l ih => exact ih (hs fb h0 a (by simp)) (fun fb h b hb => hs fb h b (by simp [hb]))

/-- A whole frame keeps the framebuffer's canonical form. -/
theorem wf_renderFrame {s : State} (h : Memory.wf Config.fbUnlisted (720 * 351) s.fb = true) :
    Memory.wf Config.fbUnlisted (720 * 351) s.renderFrame = true := by
  refine foldl_keeps
    (P := fun fb => Memory.wf Config.fbUnlisted (720 * 351) fb = true) _ h fun fb hfb r hr => ?_
  refine foldl_keeps
    (P := fun fb => Memory.wf Config.fbUnlisted (720 * 351) fb = true) _ hfb fun fb hfb sc hsc => ?_
  refine foldl_keeps
    (P := fun fb => Memory.wf Config.fbUnlisted (720 * 351) fb = true) _ hfb fun fb hfb c hc => ?_
  simp only [List.mem_range, Config.visibleRows, Config.scanlines, Config.columns] at hr hsc hc
  exact wf_fbCell _ hfb hc (by omega)

/-- The framebuffer that a reset draws is canonical. -/
theorem wf_assertReset_fb (s : State) :
    Memory.wf Config.fbUnlisted (720 * 351) s.assertReset.fb = true :=
  Memory.wf_tabulate _ _ _

theorem wf_reset_vram : Memory.wf Config.vramUnlisted 0x8000 State.reset.vram = true := rfl

theorem wf_reset_cgrom : Memory.wf Config.cgUnlisted 4096 State.reset.cgrom = true :=
  Memory.wf_tabulate Config.cgUnlisted Config.cgSize (fun a => Config.cgrom (BitVec.ofNat 12 a))

theorem wf_reset_fb : Memory.wf Config.fbUnlisted (720 * 351) State.reset.fb = true := rfl

/-! ### The sequencer -/

/-- `busy` (R31). -/
theorem busy_iff (s : State) : s.busy = true ↔ s.state ≠ fsmIdle := decide_eq_true_iff

/-- The four cases of the advance (R209). -/
theorem advance_cases (s : State) :
    (s.col.toNat < 79 ∧ s.advance = { s with col := s.col + 1, state := fsmCellAttr }) ∨
    (¬ s.col.toNat < 79 ∧ s.scan.toNat < 12 ∧
      s.advance = { s with col := 0, scan := s.scan + 1, state := fsmCellAttr }) ∨
    (¬ s.col.toNat < 79 ∧ ¬ s.scan.toNat < 12 ∧ s.row.toNat < 26 ∧
      s.advance = { s with row := s.row + 1, state := fsmRowHi }) ∨
    (¬ s.col.toNat < 79 ∧ ¬ s.scan.toNat < 12 ∧ ¬ s.row.toNat < 26 ∧
      s.advance = { s with state := fsmIdle, ports.frameDone := true }) := by
  simp only [State.advance, Config.columns, Config.finalScanline, Config.visibleRows]
  by_cases h1 : s.col.toNat < 79
  · simp [h1]
  · by_cases h2 : s.scan.toNat < 12
    · simp [h1, h2]
    · by_cases h3 : s.row.toNat < 26 <;> simp [h1, h2, h3]

theorem advance_state (s : State) : s.advance.state =
    if s.col.toNat < 79 then fsmCellAttr else if s.scan.toNat < 12 then fsmCellAttr
    else if s.row.toNat < 26 then fsmRowHi else fsmIdle := by
  rcases advance_cases s with h | h | h | h <;> simp [h]

theorem advance_row (s : State) : s.advance.row =
    if s.col.toNat < 79 then s.row else if s.scan.toNat < 12 then s.row
    else if s.row.toNat < 26 then s.row + 1 else s.row := by
  rcases advance_cases s with h | h | h | h <;> simp [h]

theorem advance_scan (s : State) : s.advance.scan =
    if s.col.toNat < 79 then s.scan else if s.scan.toNat < 12 then s.scan + 1 else s.scan := by
  rcases advance_cases s with h | h | h | h <;> simp [h]

theorem advance_col (s : State) : s.advance.col =
    if s.col.toNat < 79 then s.col + 1 else if s.scan.toNat < 12 then 0 else s.col := by
  rcases advance_cases s with h | h | h | h <;> simp [h]

theorem advance_ports (s : State) : s.advance.ports =
    if s.col.toNat < 79 ∨ s.scan.toNat < 12 ∨ s.row.toNat < 26 then s.ports
    else { s.ports with frameDone := true } := by
  rcases advance_cases s with h | h | h | h <;> simp [h]

@[simp] theorem advance_vram (s : State) : s.advance.vram = s.vram := by
  rcases advance_cases s with h | h | h | h <;> simp [h]

@[simp] theorem advance_cgrom (s : State) : s.advance.cgrom = s.cgrom := by
  rcases advance_cases s with h | h | h | h <;> simp [h]

@[simp] theorem advance_fb (s : State) : s.advance.fb = s.fb := by
  rcases advance_cases s with h | h | h | h <;> simp [h]

@[simp] theorem advance_tableBase (s : State) : s.advance.tableBase = s.tableBase := by
  rcases advance_cases s with h | h | h | h <;> simp [h]

@[simp] theorem advance_rowStart (s : State) : s.advance.rowStart = s.rowStart := by
  rcases advance_cases s with h | h | h | h <;> simp [h]

@[simp] theorem advance_ptrHi (s : State) : s.advance.ptrHi = s.ptrHi := by
  rcases advance_cases s with h | h | h | h <;> simp [h]

@[simp] theorem advance_attrL (s : State) : s.advance.attrL = s.attrL := by
  rcases advance_cases s with h | h | h | h <;> simp [h]

@[simp] theorem advance_nets (s : State) : s.advance.nets = s.nets := by
  rcases advance_cases s with h | h | h | h <;> simp [h]

@[simp] theorem advance_inputs (s : State) : s.advance.inputs = s.inputs := by
  rcases advance_cases s with h | h | h | h <;> simp [h]

@[simp] theorem advance_draws (s : State) : s.advance.draws = s.draws := by
  rcases advance_cases s with h | h | h | h <;> simp [h]

/-- The advance carries the datapath values along. -/
theorem advance_with_nets (s : State) (n : Nets) :
    ({ s with nets := n } : State).advance = { s.advance with nets := n } := by
  simp only [State.advance]
  by_cases h1 : s.col.toNat < Config.columns - 1
  · simp only [h1, if_true]
  · by_cases h2 : s.scan.toNat < Config.finalScanline
    · simp only [h1, h2, if_true, if_false]
    · by_cases h3 : s.row.toNat < Config.visibleRows - 1 <;> simp only [h1, h2, h3, if_true, if_false]

/-- The advance carries the port `frame_tick` along. -/
theorem advance_with_frameTick (s : State) (b : Bool) :
    ({ s with ports.frameTick := b } : State).advance = { s.advance with ports.frameTick := b } := by
  simp only [State.advance]
  by_cases h1 : s.col.toNat < Config.columns - 1
  · simp only [h1, if_true]
  · by_cases h2 : s.scan.toNat < Config.finalScanline
    · simp only [h1, h2, if_true, if_false]
    · by_cases h3 : s.row.toNat < Config.visibleRows - 1 <;> simp only [h1, h2, h3, if_true, if_false]

end Sys2Proof.Machine
end

