-- ==== Sys2Proof/Laws/Step.lean ====
section
/-! SUPPORT. What the machine can do in a step, said once: the operation each FSM code runs, the kinds of
step, and the outcomes of exec. -/

namespace Sys2Proof.Machine

/-! ### The sequencer's operation -/

@[simp] theorem beginStep_wordAt (s : State) (tick : Bool) (rest : List Input) (site : Site) :
    (s.beginStep tick rest).wordAt site = s.wordAt site := by
  cases site <;> rfl

theorem decode_sequencer (code : BitVec 3) : decode .sequencer (code.setWidth 16) = decodeFsm code := by
  revert code; decide

/-- The sequencer runs the operation of the code in `state`. -/
theorem operate_sequencer (s : State) :
    operate .sequencer s =
      match decodeFsm s.state with
      | .ok i => exec i s
      | .error reason => .refused (.undecodable reason) := by
  have h : decode .sequencer (s.wordAt .sequencer) = decodeFsm s.state := decode_sequencer s.state
  cases hd : decodeFsm s.state <;> rw [hd] at h <;> simp only [operate, h]

theorem operate_idle {s : State} (h : s.state = fsmIdle) : operate .sequencer s = execFcIdle s := by
  rw [operate_sequencer, h]; rfl

theorem operate_rowHi {s : State} (h : s.state = fsmRowHi) : operate .sequencer s = execFcRowHi s := by
  rw [operate_sequencer, h]; rfl

theorem operate_rowLo {s : State} (h : s.state = fsmRowLo) : operate .sequencer s = execFcRowLo s := by
  rw [operate_sequencer, h]; rfl

theorem operate_cellAttr {s : State} (h : s.state = fsmCellAttr) :
    operate .sequencer s = execFcCellAttr s := by
  rw [operate_sequencer, h]; rfl

theorem operate_cellCode {s : State} (h : s.state = fsmCellCode) :
    operate .sequencer s = execFcCellCode s := by
  rw [operate_sequencer, h]; rfl

/-- A code up to 4 is one of the five states (R89). -/
theorem fsm_cases {code : BitVec 3} (h : code.toNat ≤ 4) :
    code = fsmIdle ∨ code = fsmRowHi ∨ code = fsmRowLo ∨ code = fsmCellAttr ∨ code = fsmCellCode := by
  revert code; decide

/-! ### The kinds of step -/

/-- A step is the block's, a host write, a reset, or one unit alone. -/
theorem step_cases (s : State) :
    (∃ tick, s.nextBlockTick = some tick ∧
      step s = operate .sequencer (s.beginStep tick s.inputs.tail)) ∨
    (∃ o b rest, s.inputs = .hostWrite o b :: rest ∧
      step s = .next ((s.beginStep false rest).hostWrite o b)) ∨
    (∃ rest, s.inputs = .reset :: rest ∧ step s = .next (s.beginStep false rest).assertReset) ∨
    (∃ site rest, s.inputs = .operate site :: rest ∧ step s = operate site (s.beginStep false rest)) := by
  simp only [step, stepMachine, State.nextBlockTick]
  cases h : s.inputs with
  | nil => simp
  | cons i rest => cases i <;> simp

theorem step_block {s : State} {tick : Bool} (h : s.nextBlockTick = some tick) :
    step s = operate .sequencer (s.beginStep tick s.inputs.tail) := by
  unfold State.nextBlockTick at h
  simp only [step, stepMachine]
  cases hi : s.inputs with
  | nil => rw [hi] at h; cases h; rfl
  | cons i rest =>
    rw [hi] at h
    cases i <;> simp_all

/-- An operation at a site that answers a next state is exec of the instruction decoded there. -/
theorem operate_next {site : Site} {s t : State} (h : operate site s = .next t) :
    ∃ i, decode site (s.wordAt site) = .ok i ∧ exec i s = .next t := by
  unfold operate at h
  split at h
  · exact ⟨_, ‹_›, h⟩
  · cases h

/-! ### exec -/

theorem execFcCellCode_next {s t : State} (h : execFcCellCode s = .next t) :
    s.cellInRange = true ∧ t = s.cellCode := by
  unfold execFcCellCode at h
  split at h
  · exact ⟨‹_›, by cases h; rfl⟩
  · cases h

theorem cellInRange_iff (s : State) :
    s.cellInRange = true ↔ s.col.toNat < 80 ∧ 13 * s.row.toNat + s.scan.toNat < 351 := by
  simp only [State.cellInRange, Bool.and_eq_true, decide_eq_true_eq]
  exact Iff.rfl

theorem cellInRange_of_ranges {s : State} (hr : s.row.toNat ≤ 26) (hs : s.scan.toNat ≤ 12)
    (hc : s.col.toNat ≤ 79) : s.cellInRange = true :=
  (cellInRange_iff s).2 ⟨by omega, by omega⟩

/-- What a block step that answers a next state did: one of the five transitions, on the state at the start
of the step. -/
theorem block_cases {s t : State} {tick : Bool} (hd : s.nextBlockTick = some tick)
    (h : step s = .next t) :
    (s.state = fsmIdle ∧ execFcIdle (s.beginStep tick s.inputs.tail) = .next t) ∨
    (s.state = fsmRowHi ∧ execFcRowHi (s.beginStep tick s.inputs.tail) = .next t) ∨
    (s.state = fsmRowLo ∧ execFcRowLo (s.beginStep tick s.inputs.tail) = .next t) ∨
    (s.state = fsmCellAttr ∧ execFcCellAttr (s.beginStep tick s.inputs.tail) = .next t) ∨
    (s.state = fsmCellCode ∧ s.cellInRange = true ∧ t = (s.beginStep tick s.inputs.tail).cellCode) := by
  rw [step_block hd] at h
  by_cases hc : s.state.toNat ≤ 4
  · rcases fsm_cases hc with e | e | e | e | e
    · exact .inl ⟨e, by rwa [operate_idle (s := s.beginStep tick s.inputs.tail) e] at h⟩
    · exact .inr (.inl ⟨e, by rwa [operate_rowHi (s := s.beginStep tick s.inputs.tail) e] at h⟩)
    · exact .inr (.inr (.inl ⟨e, by rwa [operate_rowLo (s := s.beginStep tick s.inputs.tail) e] at h⟩))
    · exact .inr (.inr (.inr (.inl ⟨e, by rwa [operate_cellAttr (s := s.beginStep tick s.inputs.tail) e] at h⟩)))
    · rw [operate_cellCode (s := s.beginStep tick s.inputs.tail) e] at h
      obtain ⟨hr, ht⟩ := execFcCellCode_next h
      exact .inr (.inr (.inr (.inr ⟨e, hr, ht⟩)))
  · rw [operate_sequencer] at h
    have hu : decodeFsm (s.beginStep tick s.inputs.tail).state = .error .unreachableFsmCode := by
      show decodeFsm s.state = _
      revert hc
      generalize s.state = c
      revert c
      decide
    rw [hu] at h
    cases h

/-! ### Runs -/

/-- A run in two parts. -/
theorem runSteps_add {m n : Nat} {s t : State} (h : runSteps m s = .next t) :
    runSteps (m + n) s = runSteps n t := by
  induction m generalizing s with
  | zero => cases h; simp
  | succ m ih =>
    rw [Nat.succ_add]
    simp only [runSteps] at h ⊢
    split at h
    · rename_i e
      rw [e] at *
      exact ih h
    · cases h
    · cases h

end Sys2Proof.Machine
end

