-- ==== Sys2Proof/Tests/Slice0.lean ====
section
/-! SUPPORT. The model's own tests: the checks of WellFormed refuse what they should; a word of each operation,
written out from its format, decodes; worked vectors of spec/95_test_vectors.md, by their ids; and for every
statement with hypotheses a state and operands that meet them (witness_<its name>). -/

namespace Sys2Proof.Tests

open Sys2Proof.Machine

/-! ### WellFormed refuses (one ill-formed term a check) -/

theorem test_wf_refuses_row_27 : (Instr.rprResolve 27#5).wellFormed = false := by decide
theorem test_wf_refuses_altfont : (Instr.apAltfont 0xFE#8).wellFormed = false := by decide
theorem test_wf_refuses_dim : (Instr.apDim 0xFD#8).wellFormed = false := by decide
theorem test_wf_refuses_conceal : (Instr.apConceal 0xFB#8).wellFormed = false := by decide
theorem test_wf_refuses_rsvd3 : (Instr.apRsvd3 0xF7#8).wellFormed = false := by decide
theorem test_wf_refuses_underline : (Instr.apUnderline 0xEF#8).wellFormed = false := by decide
theorem test_wf_refuses_reverse : (Instr.apReverse 0xDF#8).wellFormed = false := by decide
theorem test_wf_refuses_rsvd6 : (Instr.apRsvd6 0xBF#8).wellFormed = false := by decide
theorem test_wf_refuses_rsvd7 : (Instr.apRsvd7 0x7F#8).wellFormed = false := by decide

/-! ### A word of every operation, bit by bit -/

/-- R85: bank 11, glyph 10:4, line 3:0. -/
theorem test_decode_cgrRead :
    (decode .cgAddress 0b0000_0_1000001_0101#16).toOption = some (.cgrRead 0#1 0x41#7 5#4) := by decide

/-- R130: the row index, 0 to 26. -/
theorem test_decode_rprResolve : (decode .resolver 0b11010#16).toOption = some (.rprResolve 26#5) := by decide

/-- R82. -/
theorem test_decode_apProcess :
    (decode .attrByte 0b1100_1000#16).toOption = some (.apProcess 0xC8#8) := by decide

/-- R82: bit 0. -/
theorem test_decode_apAltfont :
    (decode (.attrBit .altfont) 0b0000_0001#16).toOption = some (.apAltfont 0x01#8) := by decide

/-- R82: bit 1. -/
theorem test_decode_apDim :
    (decode (.attrBit .dim) 0b0000_0010#16).toOption = some (.apDim 0x02#8) := by decide

/-- R82: bit 2. -/
theorem test_decode_apConceal :
    (decode (.attrBit .conceal) 0b0000_0100#16).toOption = some (.apConceal 0x04#8) := by decide

/-- R82: bit 3. -/
theorem test_decode_apRsvd3 :
    (decode (.attrBit .rsvd3) 0b0000_1000#16).toOption = some (.apRsvd3 0x08#8) := by decide

/-- R82: bit 4. -/
theorem test_decode_apUnderline :
    (decode (.attrBit .underline) 0b0001_0000#16).toOption = some (.apUnderline 0x10#8) := by decide

/-- R82: bit 5. -/
theorem test_decode_apReverse :
    (decode (.attrBit .reverse) 0b0010_0000#16).toOption = some (.apReverse 0x20#8) := by decide

/-- R82: bit 6. -/
theorem test_decode_apRsvd6 :
    (decode (.attrBit .rsvd6) 0b0100_0000#16).toOption = some (.apRsvd6 0x40#8) := by decide

/-- R82: bit 7. -/
theorem test_decode_apRsvd7 :
    (decode (.attrBit .rsvd7) 0b1000_0000#16).toOption = some (.apRsvd7 0x80#8) := by decide

/-- R85, code byte bit 7 above it (log entry 12). -/
theorem test_decode_grLookup :
    (decode .lookup 0b000_1_1_1000001_0011#16).toOption = some (.grLookup 0xC1#8 1#1 3#4) := by decide

/-- R87. -/
theorem test_decode_grExpand : (decode .expander 0b0001_1000#16).toOption = some (.grExpand 0x18#8) := by decide

/-- R89. -/
theorem test_decode_fcIdle : (decode .sequencer 0b000#16).toOption = some .fcIdle := by decide

/-- R89. -/
theorem test_decode_fcRowHi : (decode .sequencer 0b001#16).toOption = some .fcRowHi := by decide

/-- R89. -/
theorem test_decode_fcRowLo : (decode .sequencer 0b010#16).toOption = some .fcRowLo := by decide

/-- R89. -/
theorem test_decode_fcCellAttr : (decode .sequencer 0b011#16).toOption = some .fcCellAttr := by decide

/-- R89. -/
theorem test_decode_fcCellCode : (decode .sequencer 0b100#16).toOption = some .fcCellCode := by decide

/-- R200: no bits. -/
theorem test_decode_fcRenderFrame : (decode .frameCommand 0#16).toOption = some .fcRenderFrame := by decide

/-- I13, R130, the table's masks, R80: each rejection by its name. -/
theorem test_decode_rejects :
    decode .sequencer 0b101#16 = .error .unreachableFsmCode ∧
    decode .resolver 27#16 = .error .rowOutOfRange ∧
    decode (.attrBit .dim) 0xFD#16 = .error .functionNotSelected ∧
    decode .cgAddress 0x1000#16 = .error .wordTooWide := ⟨rfl, rfl, rfl, rfl⟩

/-- The bare words of spec/opcode_table.json (log entry 9). -/
theorem test_table_words :
    decodeTableWord 8 0x04 = some .fcCellCode ∧ decodeTableWord 8 0x10 = some (.apUnderline 0x10#8) ∧
    decodeTableWord 8 0x30 = some (.apProcess 0x30#8) ∧
    decodeTableWord 16 0x0C13 = some (.cgrRead 1#1 0x41#7 3#4) ∧
    decodeTableWord 16 0x8A20 = some (.rprResolve 0#5) ∧ decodeTableWord 0 0 = some .fcRenderFrame := by decide

/-! ### Small states -/

/-- What a next state answers to a question; a fault or a refusal answers no. -/
def after (o : Host.Outcome State Fault Refusal) (p : State → Bool) : Bool :=
  match o with
  | .next t => p t
  | _ => false

/-- A block in an FSM state with its cursor, over a small VRAM and CG ROM. TABLE_BASE 0x1000; slot of row 1
is 0x12 0x34 (V-RP-03), of row 26 is 0x8A 0x20 (V-RP-02); the cell at (26, 79) is underlined code 0x41. -/
def demo (state : BitVec 3) (row : BitVec 5) (scan : BitVec 4) (col : BitVec 7) : State :=
  { State.reset with
    state := state
    row := row
    scan := scan
    col := col
    rowStart := 0x0A20
    attrL := 0x10
    vram := [(0x0ABE, 0x10), (0x0ABF, 0x41), (0x10D8, 0x80), (0x10DC, 0x12), (0x10DD, 0x34), (0x1140, 0x8A),
      (0x1141, 0x20)]
    cgrom := [(0x415, 0xE7), (0x41C, 0xE7), (0xFFF, 0x5A)]
    tableBase := 0x1000 }

/-- The demo state whose next input is a host write. -/
def hostWriting (state : BitVec 3) : State :=
  { demo state 3 4 5 with inputs := [.hostWrite 0x7FFF 0x41] }

/-- The demo state with a ROM byte and a scanline, as a unit finds them. -/
def withRom (rom : Byte) (scan : BitVec 4) : State :=
  { demo 0 0 scan 0 with nets.rom := rom }

/-! ### Vectors of spec/95_test_vectors.md -/

/-- V-CG-01. -/
theorem test_cgr_read : after (exec (.cgrRead 0 0x41 5) (demo 0 0 0 0)) (fun t => t.nets.rom = 0xE7) = true := by
  decide

/-- V-CG-03: the highest address. -/
theorem test_cgr_read_top :
    after (exec (.cgrRead 1 0x7F 15) (demo 0 0 0 0)) (fun t => t.nets.rom = 0x5A) = true := by decide

/-- V-RP-02. -/
theorem test_rpr_row_26 :
    after (exec (.rprResolve 26) (demo 0 0 0 0)) (fun t => t.rowStart = 0x0A20 ∧
      t.ports.vramReads = [(0x1140, 0x8A), (0x1141, 0x20)]) = true := by decide

/-- V-RP-03: the negative difference wraps; V-RP-08: the slot straddles the end of VRAM. -/
theorem test_rpr_wraps :
    after (exec (.rprResolve 1) (demo 0 0 0 0)) (fun t => t.rowStart = 0x1234) = true ∧
    after (exec (.rprResolve 0) { demo 0 0 0 0 with tableBase := 0x7F27 }) (fun t =>
      t.ports.vramReads.map Prod.fst = [0x7FFF, 0x0000]) = true := by decide

/-- V-AP-07 (underline then reverse) and V-AP-06 (underline inactive on scanline 11). -/
theorem test_ap_process_underline :
    after (exec (.apProcess 0x30) (withRom 0xE7 12)) (fun t => t.nets.pattern = 0x00 ∧ t.nets.fg = .fgHi) = true ∧
    after (exec (.apProcess 0x10) (withRom 0xE7 11)) (fun t => t.nets.pattern = 0x18) = true := by decide

/-- V-AP-14 (reserved bits) and V-AP-11 (conceal wins over dim). -/
theorem test_ap_process_conceal :
    after (exec (.apProcess 0xC8) (withRom 0x55 0)) (fun t => t.nets.pattern = 0xAA) = true ∧
    after (exec (.apProcess 0x06) (withRom 0x00 0)) (fun t => t.nets.fg = .bg ∧ t.nets.pattern = 0xFF) = true := by
  decide

/-- R152, V-AP-05. -/
theorem test_ap_underline :
    after (exec (.apUnderline 0x10) (withRom 0xE7 12)) (fun t => t.nets.pattern = 0xFF) = true := by decide

/-- R154, V-AP-09. -/
theorem test_ap_dim : after (exec (.apDim 0x02) (withRom 0 0)) (fun t => t.nets.fg = .fgLo) = true := by decide

/-- R155: the foreground becomes the background, here FG_HI given as bg. -/
theorem test_ap_conceal :
    after (exec (.apConceal 0x04) { withRom 0 0 with nets.fg := .fgLo, nets.bg := .fgHi }) (fun t =>
      t.nets.fg = .fgHi) = true := by decide

/-- R156, V-AP-03: 0x80 becomes 0x7F. -/
theorem test_ap_reverse :
    after (exec (.apReverse 0x20) { withRom 0 0 with nets.pattern := 0x80 }) (fun t =>
      t.nets.pattern = 0x7F) = true := by decide

/-- R157. -/
theorem test_ap_altfont :
    after (exec (.apAltfont 0x01) (withRom 0 0)) (fun t => t.nets.bankOffset = 0x800) = true := by decide

/-- R158. -/
theorem test_ap_reserved (s : State) :
    exec (.apRsvd3 0x08) s = .next s ∧ exec (.apRsvd6 0x40) s = .next s ∧ exec (.apRsvd7 0x80) s = .next s :=
  ⟨rfl, rfl, rfl⟩

/-- V-GR-03 and V-GR-05. -/
theorem test_gr_lookup_bank_1 :
    after (exec (.grLookup 0x41 1 5) (demo 0 0 0 0)) (fun t => t.nets.cgAddr = 0xC15 ∧ t.nets.rom = 0xFF) = true ∧
    after (exec (.grLookup 0xFF 1 12) (demo 0 0 0 0)) (fun t => t.nets.cgAddr = 0xFFC) = true := by decide

/-- V-GR-04 (bit 7 discarded) and V-GR-07. -/
theorem test_gr_lookup_bit_7 :
    after (exec (.grLookup 0xC1 0 5) (demo 0 0 0 0)) (fun t => t.nets.cgAddr = 0x415 ∧ t.nets.rom = 0xE7) = true ∧
    after (exec (.grLookup 0x80 1 0) (demo 0 0 0 0)) (fun t => t.nets.cgAddr = 0x800) = true := by decide

/-- V-EX-03. -/
theorem test_gr_expand_dim :
    after (exec (.grExpand 0x81) { demo 0 0 0 0 with nets.fg := .fgLo }) (fun t =>
      t.nets.pixels = #v[.fgLo, .bg, .bg, .bg, .bg, .bg, .bg, .fgLo, .bg]) = true := by decide

/-- V-EX-06. -/
theorem test_gr_expand_mixed :
    after (exec (.grExpand 0x5A) { demo 0 0 0 0 with nets.fg := .fgHi }) (fun t =>
      t.nets.pixels = #v[.bg, .fgHi, .bg, .fgHi, .fgHi, .bg, .fgHi, .bg, .bg]) = true := by decide

/-- V-FC-12: with no tick IDLE stays and makes no access. -/
theorem test_idle_stays :
    after (step (demo 0b000 26 12 79)) (fun t => t.state = 0b000 ∧ t.ports.vramReads = [] ∧ t.busy = false) =
      true := by decide

/-- V-FC-08: the tick step leads to ROW_HI of row 0, busy. -/
theorem test_tick_starts :
    after (step { demo 0b000 26 12 79 with inputs := [.block true] }) (fun t =>
      t.state = 0b001 ∧ t.row = 0 ∧ t.busy = true) = true := by decide

/-- V-RP-02 through ROW_HI and ROW_LO. -/
theorem test_row_pointer_steps :
    after (runSteps 2 (demo 0b001 26 12 79)) (fun t =>
      t.ptrHi = 0x8A ∧ t.rowStart = 0x0A20 ∧ t.scan = 0 ∧ t.col = 0 ∧ t.state = 0b011) = true := by decide

/-- V-FC-02: from row start 0x7FFF column 1's attribute byte is at 0x0001. -/
theorem test_cell_attr_wraps :
    after (step { demo 0b011 2 0 1 with rowStart := 0x7FFF, vram := [(0x0001, 0x41)] }) (fun t =>
      t.attrL = 0x41 ∧ t.ports.vramReads = [(0x0001, 0x41)] ∧ t.state = 0b100) = true := by decide

/-- V-FC-05, V-FC-10 and V-AP-05: the last cell of a frame, underlined. -/
theorem test_last_cell :
    after (step (demo 0b100 26 12 79)) (fun t =>
      t.state = 0b000 ∧ t.ports.frameDone = true ∧ fbRead t.fb 711 350 = .fgHi ∧ fbRead t.fb 718 350 = .fgHi ∧
      fbRead t.fb 719 350 = .bg ∧ fbRead t.fb 710 350 = .bg) = true := by decide

/-- V-FC-05, R181, R37: what the last cell drives on the ports; its byte is discarded by
underline and read all the same (D14). -/
theorem test_cell_code_ports :
    after (step (demo 0b100 26 12 79)) (fun t =>
      t.ports.vramReads = [(0x0ABF, 0x41)] ∧ t.ports.cgRead = some (0x41C, 0xE7) ∧
      t.ports.fbWrite = some
        { x := 711, y := 350, pixels := #v[.fgHi, .fgHi, .fgHi, .fgHi, .fgHi, .fgHi, .fgHi, .fgHi, .bg] }) =
      true := by decide

/-- V-FC-09: the last cell of a row leads to ROW_HI of the next. -/
theorem test_row_ends :
    after (step (demo 0b100 0 12 79)) (fun t => t.state = 0b001 ∧ t.row = 1 ∧ t.ports.frameDone = false) =
      true := by decide

/-- R211: a frame asked for while busy is ignored. -/
theorem test_render_frame_busy :
    exec .fcRenderFrame (demo 0b011 3 4 5) = .next (demo 0b011 3 4 5) := rfl

/-- V-HZ-01: the torn pointer of row 3. -/
theorem test_torn_pointer :
    after (runSteps 4 { demo 0b001 3 0 0 with
      vram := [(0x10E4, 0x80)]
      inputs := [.block false, .hostWrite 0x10E4 0x90, .hostWrite 0x10E5 0xA0, .block false] }) (fun t =>
        t.rowStart = 0x00A0) = true := by decide

/-- V-HZ-02: the same write after ROW_LO leaves the row start at 0x0000. -/
theorem test_late_pointer :
    after (runSteps 4 { demo 0b001 3 0 0 with
      vram := [(0x10E4, 0x80)]
      inputs := [.block false, .block false, .hostWrite 0x10E4 0x90, .hostWrite 0x10E5 0xA0] }) (fun t =>
        t.rowStart = 0x0000 ∧ t.vread 0x10E5 = 0xA0) = true := by decide

/-- A table word runs as the first operation after reset (log entry 10): FC.CELL_ATTR. -/
theorem test_fetch_word :
    after (step (State.reset.withFetchWord 8 0x03)) (fun t => t.state = 0b100) = true := by decide

/-- A ROWPTR16 word runs as RPR.RESOLVE of row 0 whatever TABLE_BASE is: no refusal. -/
theorem test_fetch_row_pointer :
    ∃ t, step (State.reset.withFetchWord 16 0x8A20) = .next t := ⟨_, rfl⟩

/-! ### Witnesses of the statements' hypotheses -/

theorem witness_DecodeOfEncodeIsTheInstruction :
    (Instr.rprResolve 26#5).wellFormed = true ∧ (Instr.apRsvd7 0x80#8).wellFormed = true ∧
    (Instr.grLookup 0xFF#8 1#1 15#4).wellFormed = true := by decide

theorem witness_EncodeOfDecodeIsTheWord :
    decode .lookup 0x1C13#16 = .ok (.grLookup 0xC1#8 1#1 3#4) := rfl

theorem witness_RprResolveComputesTheRowStart :
    (26#5).toNat ≤ 26 ∧ (0#5).toNat ≤ 26 ∧ (demo 0 0 0 0).tableBase = 0x1000 := by decide

theorem witness_RowReadsItsSlotOffsets : (26#5).toNat ≤ 26 ∧ (demo 0 0 0 0).tableBase = 0x1000 := by decide

theorem witness_ApUnderlineForcesTheFinalScanline :
    (0x30#8).getLsbD 4 = true ∧ (withRom 0xE7 12).scan = 12#4 ∧ (withRom 0xE7 11).scan.toNat ≤ 11 := by decide

theorem witness_ApDimSelectsTheIntensity : (0x04#8).getLsbD 2 = true := by decide

/-- Not underlined on the final scanline, and underlined on the scanline before it. -/
theorem witness_ApReverseComplementsThePattern :
    (0x20#8).getLsbD 5 = true ∧ ¬ ((0x20#8).getLsbD 4 = true ∧ (withRom 0x80 12).scan = 12#4) ∧
    (0x30#8).getLsbD 5 = true ∧ ¬ ((0x30#8).getLsbD 4 = true ∧ (withRom 0x80 11).scan = 12#4) ∧
    (0x24#8).getLsbD 2 = true := by decide

/-- Underlined on the final scanline, concealed, and the last cell of a frame with a position just left of it. -/
theorem witness_ApAltfontSelectsTheBank :
    ((0x10#8).getLsbD 4 = true ∧ 12#4 = 12#4) ∧ (0x05#8).getLsbD 2 = true ∧
    (demo 0b100 26 12 79).row.toNat ≤ 26 ∧ (demo 0b100 26 12 79).scan.toNat ≤ 12 ∧
    (demo 0b100 26 12 79).col.toNat ≤ 79 ∧ ¬ (9 * (demo 0b100 26 12 79).col.toNat ≤ 710) := by decide

theorem witness_ApConcealHidesTheCell : (0x04#8).getLsbD 2 = true ∧ (0xFF#8).getLsbD 2 = true := by decide

theorem witness_UnderlineHidesTheGlyph :
    (0x10#8).getLsbD 4 = true ∧ 0x11#8 &&& 0xFE#8 = 0x10#8 &&& 0xFE#8 := by decide

theorem witness_ReservedBitsNeverReachTheFramebuffer :
    (demo 0b100 26 12 79).row.toNat ≤ 26 ∧ (demo 0b100 26 12 79).scan.toNat ≤ 12 ∧
    (demo 0b100 26 12 79).col.toNat ≤ 79 ∧ 0x10#8 &&& 0x37#8 = 0xD8#8 &&& 0x37#8 := by decide

theorem witness_SpacingColumnIsBackground :
    (demo 0b100 26 12 79).row.toNat ≤ 26 ∧ (demo 0b100 26 12 79).scan.toNat ≤ 12 ∧
    (demo 0b100 26 12 79).col.toNat ≤ 79 := by decide

theorem witness_FcIdleWaitsForTheTick :
    { demo 0b000 5 5 5 with ports := Ports.quiet true }.ports.frameTick = true ∧
    (demo 0b000 5 5 5).ports.frameTick = false := by decide

/-- The last position of the framebuffer is in the cell; its left and upper neighbours are not. -/
theorem witness_FcCellCodeDrawsTheCell :
    (demo 0b100 26 12 79).row.toNat ≤ 26 ∧ (demo 0b100 26 12 79).scan.toNat ≤ 12 ∧
    (demo 0b100 26 12 79).col.toNat ≤ 79 ∧
    719 = 9 * (demo 0b100 26 12 79).col.toNat + 8 ∧
    350 = 13 * (demo 0b100 26 12 79).row.toNat + (demo 0b100 26 12 79).scan.toNat ∧
    ¬ (9 * (demo 0b100 26 12 79).col.toNat ≤ 710) := by decide

/-- One state for each of the four ways the cursor goes, at the boundary. -/
theorem witness_AdvanceGoesColumnsScanlinesRows :
    [demo 0b100 26 12 78, demo 0b100 26 11 79, demo 0b100 25 12 79, demo 0b100 26 12 79].all (fun s =>
      s.row.toNat ≤ 26 ∧ s.scan.toNat ≤ 12 ∧ s.col.toNat ≤ 79 ∧ s.ports.frameDone = false) = true := by decide

/-- Both sides of the boundary, and an operation that is not FC.CELL_CODE. -/
theorem witness_OnlyAnOutsideCellStops :
    ¬ ((demo 0b100 27 0 0).col.toNat < 80 ∧
      13 * (demo 0b100 27 0 0).row.toNat + (demo 0b100 27 0 0).scan.toNat < 351) ∧
    ((demo 0b100 26 12 79).col.toNat < 80 ∧
      13 * (demo 0b100 26 12 79).row.toNat + (demo 0b100 26 12 79).scan.toNat < 351) ∧
    Instr.fcIdle ≠ .fcCellCode := by decide

/-- Idle, and the first and the last cell, scanline and row. -/
theorem witness_RenderFrameDrawsEveryCell :
    (demo 0b000 3 4 5).state = 0b000#3 ∧ ((0 ≤ 26 ∧ 0 ≤ 12 ∧ 0 ≤ 79) ∧ (26 ≤ 26 ∧ 12 ≤ 12 ∧ 79 ≤ 79)) := by decide

theorem witness_RenderFrameWhileBusyDoesNothing : (demo 0b100 3 4 5).state ≠ 0b000#3 := by decide

/-- Two different register files and framebuffers over the same memories. -/
theorem witness_RenderingIsRepeatable :
    (demo 0b000 3 4 5).Inv ∧ { demo 0b000 6 7 8 with fb := [(0, Pixel.fgLo)] }.Inv ∧
    (demo 0b000 3 4 5).state = 0b000#3 ∧ (demo 0b000 3 4 5).vram = (demo 0b000 6 7 8).vram ∧
    (demo 0b000 3 4 5).cgrom = (demo 0b000 6 7 8).cgrom ∧
    (demo 0b000 3 4 5).tableBase = (demo 0b000 6 7 8).tableBase := by decide

theorem witness_FsmFrameEqualsRenderFrame :
    { demo 0b000 3 4 5 with inputs := [.block true, .block false, .block true] }.state = 0b000#3 ∧
    (∀ i ∈ [Input.block false, Input.block true], ∃ tick, i = Input.block tick) := by
  refine ⟨rfl, fun i hi => ?_⟩
  rcases List.mem_pair.1 hi with rfl | rfl <;> exact ⟨_, rfl⟩

/-- One state for each clause. -/
theorem witness_StepRunsTheDecodedOperation :
    (demo 0b100 26 12 79).nextBlockTick = some false ∧
    decode .sequencer ((demo 0b100 26 12 79).wordAt .sequencer) = .ok .fcCellCode ∧
    (demo 0b101 0 0 0).nextBlockTick = some false ∧
    decode .sequencer ((demo 0b101 0 0 0).wordAt .sequencer) = .error .unreachableFsmCode ∧
    decode .resolver ({ demo 0 26 0 0 with inputs := [.operate .resolver] }.wordAt .resolver) =
      .ok (.rprResolve 26#5) := ⟨rfl, rfl, rfl, rfl, rfl⟩

theorem witness_HostWriteIsSeenByLaterReads :
    { demo 0b011 3 4 5 with inputs := [.hostWrite 0x7FFF 0x41] }.inputs = [.hostWrite 0x7FFF 0x41] := by decide

theorem witness_OperationsOnlyReadVramAndRom : ∃ t, exec .fcCellCode (demo 0b100 26 12 79) = .next t := ⟨_, rfl⟩

theorem witness_StrapAndRomAreConstant : ∃ t, step (demo 0b100 26 12 79) = .next t := ⟨_, rfl⟩

theorem demo_inv : (demo 0b100 26 12 79).Inv := by decide

theorem witness_EveryStepKeepsTheInvariant :
    (demo 0b100 26 12 79).Inv ∧ ∃ t, step (demo 0b100 26 12 79) = .next t := ⟨demo_inv, _, rfl⟩

theorem witness_NoInputStopsTheBlock :
    { demo 0b100 26 12 79 with inputs := [.block true, .hostWrite 0 1, .reset] }.Inv ∧
    { demo 0b100 26 12 79 with inputs := [.block true, .hostWrite 0 1, .reset] }.hardwareOnly := by decide

/-- A busy state, a tick in IDLE and no tick in IDLE. -/
theorem witness_EveryBlockStepCountsDown :
    ((demo 0b100 26 12 79).Inv ∧ (demo 0b100 26 12 79).state ≠ 0b000#3 ∧
      ∃ t, step (demo 0b100 26 12 79) = .next t) ∧
    ({ demo 0b000 3 4 5 with inputs := [.block true] }.nextBlockTick = some true ∧
      ∃ t, step { demo 0b000 3 4 5 with inputs := [.block true] } = .next t) ∧
    ((demo 0b000 3 4 5).Inv ∧ (demo 0b000 3 4 5).nextBlockTick = some false ∧
      ∃ t, step (demo 0b000 3 4 5) = .next t) :=
  ⟨⟨demo_inv, by decide, _, rfl⟩, ⟨rfl, _, rfl⟩, by decide, rfl, _, rfl⟩

theorem witness_TickWhileBusyIsIgnored :
    (demo 0b100 26 12 79).Inv ∧ (demo 0b100 26 12 79).state ≠ 0b000#3 := by decide

theorem witness_FrameDoneMarksTheLastCell :
    (demo 0b100 26 12 79).Inv ∧ (demo 0b100 26 12 79).nextBlockTick = some false ∧
    ∃ t, step (demo 0b100 26 12 79) = .next t ∧ t.ports.frameDone = true := ⟨demo_inv, rfl, _, rfl, rfl⟩

/-- A block step in another state, and a host write while the FSM is in CELL_CODE. -/
theorem witness_OnlyCellCodeWritesTheFramebuffer :
    ((demo 0b011 26 12 79).hardwareOnly ∧ (demo 0b011 26 12 79).inputs.head? ≠ some .reset ∧
      ¬ ((demo 0b011 26 12 79).nextBlockTick ≠ none ∧ (demo 0b011 26 12 79).state = 0b100#3) ∧
      ∃ t, step (demo 0b011 26 12 79) = .next t) ∧
    ((hostWriting 0b100).hardwareOnly ∧ (hostWriting 0b100).inputs.head? ≠ some .reset ∧
      ¬ ((hostWriting 0b100).nextBlockTick ≠ none ∧ (hostWriting 0b100).state = 0b100#3) ∧
      ∃ t, step (hostWriting 0b100) = .next t) :=
  ⟨⟨by decide, by decide, by decide, _, rfl⟩, by decide, by decide, by decide, _, rfl⟩

/-- A block step in another state, and a host write while the FSM is in ROW_LO. -/
theorem witness_RowStartChangesOnlyInRowLo :
    ((demo 0b001 3 0 0).hardwareOnly ∧ (demo 0b001 3 0 0).inputs.head? ≠ some .reset ∧
      ¬ ((demo 0b001 3 0 0).nextBlockTick ≠ none ∧ (demo 0b001 3 0 0).state = 0b010#3) ∧
      ∃ t, step (demo 0b001 3 0 0) = .next t) ∧
    ((hostWriting 0b010).hardwareOnly ∧ (hostWriting 0b010).inputs.head? ≠ some .reset ∧
      ¬ ((hostWriting 0b010).nextBlockTick ≠ none ∧ (hostWriting 0b010).state = 0b010#3) ∧
      ∃ t, step (hostWriting 0b010) = .next t) :=
  ⟨⟨by decide, by decide, by decide, _, rfl⟩, by decide, by decide, by decide, _, rfl⟩

theorem witness_TornPointerMixesOldAndNew :
    { demo 0b001 3 0 0 with
      inputs := [.block false, .hostWrite 0x10E4 0x90, .hostWrite 0x10E5 0xA0, .block false] }.state = 0b001#3 ∧
    vaddr ((demo 0b001 3 0 0).tableBase.toNat + 4 * (54 + (demo 0b001 3 0 0).row.toNat)) = 0x10E4 ∧
    vaddr ((demo 0b001 3 0 0).tableBase.toNat + 4 * (54 + (demo 0b001 3 0 0).row.toNat) + 1) = 0x10E5 := by decide

/-- A state for each side of the three equivalences. -/
theorem witness_BlockStepMakesAtMostOneVramRead :
    ((demo 0b100 26 12 79).nextBlockTick = some false ∧ ∃ t, step (demo 0b100 26 12 79) = .next t) ∧
    ((demo 0b000 3 4 5).nextBlockTick = some false ∧ ∃ t, step (demo 0b000 3 4 5) = .next t) :=
  ⟨⟨rfl, _, rfl⟩, rfl, _, rfl⟩

theorem witness_BlockStepsIgnoreTheNets :
    (demo 0b100 26 12 79).nextBlockTick = some false ∧ ∃ t, step (demo 0b100 26 12 79) = .next t :=
  ⟨rfl, _, rfl⟩

theorem witness_ResetAbandonsTheFrame :
    { demo 0b011 3 4 5 with inputs := [.reset] }.inputs = [.reset] := by decide

/-- The last cell's step changes what a host reads at (711, 350). -/
theorem witness_HostReadChangesAtItsCellCode :
    (demo 0b100 26 12 79).Inv ∧ (demo 0b100 26 12 79).nextBlockTick = some false ∧
    after (step (demo 0b100 26 12 79)) (fun t =>
      t.hostReadFb 711 350 ≠ (demo 0b100 26 12 79).hostReadFb 711 350) = true :=
  ⟨demo_inv, rfl, by decide⟩

end Sys2Proof.Tests
end

section
/-! SUPPORT. What the framebuffer holds after RenderFrame (R200), one lemma for each level of its loop nest:
a cell, a scanline, a text row, the frame. A level writes the position (x, y) exactly when the position lies
in it, and always with the same pixel, which VRAM, CG ROM and strap alone determine. -/

namespace Sys2Proof.Machine

/-! ### The pixel that a frame puts at a position -/

/-- The pixel in column x of scanline `sc` of a text row that starts at `rs` (R200). -/
def State.scanPixel (s : State) (rs : Offset) (sc x : Nat) : Pixel :=
  (cellPixels s.cgrom (s.vread (cellAddr rs (x / 9))) (s.vread (cellAddr rs (x / 9) + 1))
    (BitVec.ofNat 4 sc))[x % 9]'(Nat.mod_lt x (by decide))

/-- The pixel of a frame at (x, y), by the text row and the scanline of y (R200). -/
def State.framePixel (s : State) (x y : Nat) : Pixel :=
  s.scanPixel (s.resolve (y / 13)) (y % 13) x

/-- A frame's pixels depend on VRAM, CG ROM and strap alone. -/
theorem framePixel_congr {s u : State} (hv : s.vram = u.vram) (hc : s.cgrom = u.cgrom)
    (hb : s.tableBase = u.tableBase) (x y : Nat) : s.framePixel x y = u.framePixel x y := by
  simp only [State.framePixel, State.scanPixel, vread_congr hv, resolve_congr hv hb, hc]

/-! ### The loop nest -/

/-- A loop of `n` rounds of which only round `j`, and only under `C`, writes a position: it holds `p` after
the loop when that round is run, and what it held before when not. -/
theorem fbRead_foldl_range {f : List (Nat × Pixel) → Nat → List (Nat × Pixel)} {x y j : Nat} {p : Pixel}
    {C : Prop} [Decidable C] (n : Nat) (fb : List (Nat × Pixel))
    (hround : ∀ fb, ∀ i < n, fbRead (f fb i) x y = if C ∧ j = i then p else fbRead fb x y) :
    fbRead ((List.range n).foldl f fb) x y = if C ∧ j < n then p else fbRead fb x y := by
  induction n with
  | zero => simp
  | succ n ih =>
    rw [List.range_succ, List.foldl_append, List.foldl_cons, List.foldl_nil, hround _ n n.lt_succ_self,
      ih fun fb i hi => hround fb i (Nat.lt_succ_of_lt hi)]
    by_cases hC : C
    · rcases Nat.lt_trichotomy j n with hj | hj | hj
      · simp [hC, hj, hj.ne, Nat.lt_succ_of_lt hj]
      · simp [hC, hj]
      · simp [hC, hj.ne', hj.not_gt, show ¬ j < n + 1 by omega]
    · simp [hC]

theorem fbRead_renderCell (s : State) (rs : Offset) (r sc : Nat) (fb : List (Nat × Pixel)) {c x : Nat}
    (y : Nat) (hc : c < 80) (hx : x < 720) :
    fbRead (s.renderCell rs r sc fb c) x y =
      if y = 13 * r + sc ∧ x / 9 = c then s.scanPixel rs sc x else fbRead fb x y := by
  rw [State.renderCell, fbRead_fbCell _ _ _ _ _ _ _ hc hx]
  by_cases h : y = 13 * r + sc ∧ x / 9 = c
  · obtain ⟨hy, rfl⟩ := h
    rw [dif_pos (by omega), if_pos ⟨hy, rfl⟩]
    simp only [State.scanPixel, show x - 9 * (x / 9) = x % 9 by omega]
  · rw [dif_neg (by omega), if_neg h]

theorem fbRead_renderScan (s : State) (rs : Offset) (r sc : Nat) (fb : List (Nat × Pixel)) {x : Nat}
    (y : Nat) (hx : x < 720) :
    fbRead (s.renderScan rs r fb sc) x y =
      if y = 13 * r + sc then s.scanPixel rs sc x else fbRead fb x y := by
  have hcol : x / 9 < Config.columns := Nat.div_lt_of_lt_mul hx
  rw [State.renderScan, fbRead_foldl_range _ fb fun fb c hc => fbRead_renderCell s rs r sc fb y hc hx]
  simp only [hcol, and_true]

theorem fbRead_renderRow (s : State) (r : Nat) (fb : List (Nat × Pixel)) {x : Nat} (y : Nat)
    (hx : x < 720) :
    fbRead (s.renderRow fb r) x y = if y / 13 = r then s.framePixel x y else fbRead fb x y := by
  have hround : ∀ fb, ∀ sc < Config.scanlines, fbRead (s.renderScan (s.resolve r) r fb sc) x y =
      if y / 13 = r ∧ y % 13 = sc then s.framePixel x y else fbRead fb x y := by
    intro fb sc hsc
    have hsc : sc < 13 := hsc
    rw [fbRead_renderScan s _ r sc fb y hx]
    by_cases h : y / 13 = r ∧ y % 13 = sc
    · obtain ⟨rfl, rfl⟩ := h
      rw [if_pos (by omega), if_pos ⟨rfl, rfl⟩, State.framePixel]
    · rw [if_neg (by omega), if_neg h]
  have hscan : y % 13 < Config.scanlines := Nat.mod_lt y (by decide)
  rw [State.renderRow, fbRead_foldl_range _ fb hround]
  simp only [hscan, and_true]

/-- Every position of the framebuffer holds the frame's pixel after RenderFrame, whatever stood there
before (R200). -/
theorem fbRead_renderFrame (s : State) {x y : Nat} (hx : x < 720) (hy : y < 351) :
    fbRead s.renderFrame x y = s.framePixel x y := by
  have hround : ∀ fb, ∀ r < Config.visibleRows, fbRead (s.renderRow fb r) x y =
      if True ∧ y / 13 = r then s.framePixel x y else fbRead fb x y := by
    intro fb r _
    simp only [fbRead_renderRow s r fb y hx, true_and]
  rw [State.renderFrame, fbRead_foldl_range _ _ hround, if_pos ⟨trivial, Nat.div_lt_of_lt_mul hy⟩]

/-! ### The framebuffer as data -/

/-- Two canonical framebuffers that hold the same pixel at each of the 720 x 351 positions are the same
list. -/
theorem fb_ext {fb fb' : List (Nat × Pixel)} (h : Memory.wf Config.fbUnlisted (720 * 351) fb = true)
    (h' : Memory.wf Config.fbUnlisted (720 * 351) fb' = true)
    (hread : ∀ x y, x < 720 → y < 351 → fbRead fb x y = fbRead fb' x y) : fb = fb' := by
  refine Memory.ext h h' fun a => ?_
  by_cases ha : a < 720 * 351
  · have hpos : fbIndex (a % 720) (a / 720) = a := Nat.div_add_mod a 720
    have := hread (a % 720) (a / 720) (Nat.mod_lt a (by decide)) (Nat.div_lt_of_lt_mul ha)
    rwa [fbRead, fbRead, hpos] at this
  · rw [Memory.read_above h (not_lt.1 ha), Memory.read_above h' (not_lt.1 ha)]

/-- RenderFrame leaves the same framebuffer from the same VRAM, CG ROM and strap, whatever the framebuffers
were before (R70). -/
theorem renderFrame_congr {s u : State} (hs : Memory.wf Config.fbUnlisted (720 * 351) s.fb = true)
    (hu : Memory.wf Config.fbUnlisted (720 * 351) u.fb = true) (hv : s.vram = u.vram)
    (hc : s.cgrom = u.cgrom) (hb : s.tableBase = u.tableBase) : s.renderFrame = u.renderFrame :=
  fb_ext (wf_renderFrame hs) (wf_renderFrame hu) fun x y hx hy => by
    rw [fbRead_renderFrame s hx hy, fbRead_renderFrame u hx hy, framePixel_congr hv hc hb]

/-! ### FC.RENDER_FRAME -/

theorem State.frame_fb (s : State) : s.frame.fb = s.renderFrame := by
  rw [State.frame]

/-- FC.RENDER_FRAME in IDLE completes with the whole frame (R200). -/
theorem exec_fcRenderFrame_idle {s : State} (h : s.state = fsmIdle) :
    exec .fcRenderFrame s = .next s.frame :=
  if_pos h

end Sys2Proof.Machine

open Sys2Proof.Machine

/-- Settles O33: both runs draw every position with a pixel that VRAM, CG ROM and strap determine, so the
two framebuffers read the same everywhere and, being canonical, are equal. -/
theorem renderingIsRepeatable : Obligations.RenderingIsRepeatable := by
  intro s u ⟨_, _, hsfb, _⟩ ⟨_, _, hufb, _⟩ hs hu hv hc hb
  refine ⟨s.frame, u.frame, exec_fcRenderFrame_idle hs, exec_fcRenderFrame_idle hu, ?_⟩
  rw [State.frame_fb, State.frame_fb]
  exact renderFrame_congr hsfb hufb hv hc hb

end

section
/-! SUPPORT. FC.CELL_CODE of a cell of the frame (R208, R209): that it completes, and what its framebuffer and
its FSM state are made of. The attribute byte enters them through the cell's pixels alone, and those through
bits 0, 1, 2, 4 and 5 alone (R93). -/

namespace Sys2Proof.Machine

/-! ### The attribute bits that reach a pixel -/

/-- Two bytes equal under a mask have the same bits where the mask has a 1. -/
theorem getLsbD_eq_of_and_eq {a b mask : Byte} (h : a &&& mask = b &&& mask) {i : Nat}
    (hi : mask.getLsbD i = true) : a.getLsbD i = b.getLsbD i := by
  simpa only [BitVec.getLsbD_and, hi, Bool.and_true] using congrArg (·.getLsbD i) h

/-- A cell's pixels depend on bits 0, 1, 2, 4 and 5 of its attribute byte alone: bit 0 through the font bank,
the others through AttrProcess (R93, R185). -/
theorem cellPixels_congr_attr {a b : Byte} (h : a &&& 0x37#8 = b &&& 0x37#8) (cgrom : List Host.Cell)
    (code : Byte) (scan : BitVec 4) : cellPixels cgrom a code scan = cellPixels cgrom b code scan := by
  have hbank : a.getLsbD 0 = b.getLsbD 0 := getLsbD_eq_of_and_eq h (by decide)
  have hprocess : ∀ rom final, attrProcessFn a rom final = attrProcessFn b rom final := fun rom final =>
    attrProcessFn_congr rom final (getLsbD_eq_of_and_eq h (by decide)) (getLsbD_eq_of_and_eq h (by decide))
      (getLsbD_eq_of_and_eq h (by decide)) (getLsbD_eq_of_and_eq h (by decide))
  simp only [cellPixels, hbank, hprocess]

/-! ### FC.CELL_CODE -/

/-- FC.CELL_CODE completes on every cell of the frame (R208, R241). -/
theorem exec_fcCellCode_of_ranges {s : State} (hr : s.row.toNat ≤ 26) (hs : s.scan.toNat ≤ 12)
    (hc : s.col.toNat ≤ 79) : exec .fcCellCode s = .next s.cellCode :=
  if_pos (cellInRange_of_ranges hr hs hc)

/-- The framebuffer after CELL_CODE: the cell's nine pixels written (R208). -/
theorem cellCode_fb (s : State) : s.cellCode.fb =
    fbCell s.fb s.row.toNat s.scan.toNat s.col.toNat
      (cellPixels s.cgrom s.attrL (s.vread (cellAddr s.rowStart s.col.toNat + 1)) s.scan) := by
  rw [State.cellCode, advance_fb, State.drawCell_fb]

/-- The FSM state after CELL_CODE is the advance's over the cursor (R209). -/
theorem cellCode_state (s : State) : s.cellCode.state = s.advance.state :=
  (advance_state s.drawCell).trans (advance_state s).symm

/-- Attribute bytes with the same bits 0, 1, 2, 4 and 5 leave the same framebuffer after CELL_CODE (R93). -/
theorem cellCode_fb_congr_attr (s : State) {a b : Byte} (h : a &&& 0x37#8 = b &&& 0x37#8) :
    ({ s with attrL := a } : State).cellCode.fb = ({ s with attrL := b } : State).cellCode.fb := by
  rw [cellCode_fb, cellCode_fb, cellPixels_congr_attr h]
  rfl

/-- The attribute byte does not reach the FSM state after CELL_CODE (R209). -/
theorem cellCode_state_attrL (s : State) (a : Byte) :
    ({ s with attrL := a } : State).cellCode.state = s.cellCode.state := by
  simp only [cellCode_state, advance_state]

end Sys2Proof.Machine

open Sys2Proof.Machine

/-- Settles O17: CELL_CODE completes on the cell with either byte; the two bytes give the same pixels, written
at the same nine positions, and the FSM state after it follows from the cursor, which they share. -/
theorem reservedBitsNeverReachTheFramebuffer : Obligations.ReservedBitsNeverReachTheFramebuffer := by
  intro s a b hr hs hc hab
  exact ⟨_, _, exec_fcCellCode_of_ranges hr hs hc, exec_fcCellCode_of_ranges hr hs hc,
    cellCode_fb_congr_attr s hab, (cellCode_state_attrL s a).trans (cellCode_state_attrL s b).symm⟩

end

section
/-! SUPPORT. CGR.READ (R111): the address its three fields make (R85), as a number, and the whole next state. -/

namespace Sys2Proof.Machine

/-- {bank, glyph, line} as a number (R85): each glyph takes 16 lines, each bank 128 glyphs. -/
theorem cgAddrOfFields_toNat (bank : BitVec 1) (glyph : BitVec 7) (line : BitVec 4) :
    (cgAddrOfFields bank glyph line).toNat = 2048 * bank.toNat + 16 * glyph.toNat + line.toNat := by
  have hrow : (bank ++ glyph).toNat = 128 * bank.toNat + glyph.toNat := by
    rw [BitVec.toNat_append, ← Nat.shiftLeft_add_eq_or_of_lt glyph.isLt, Nat.shiftLeft_eq, Nat.mul_comm]
  rw [cgAddrOfFields, BitVec.toNat_append, ← Nat.shiftLeft_add_eq_or_of_lt line.isLt, Nat.shiftLeft_eq,
    hrow]
  omega

/-- CGR.READ completes on every address, lines 13 to 15 included, with nothing changed but the CG read on
the nets and ports (R111). -/
theorem exec_cgrRead (bank : BitVec 1) (glyph : BitVec 7) (line : BitVec 4) (s : State) :
    exec (.cgrRead bank glyph line) s = .next (s.cgRead (cgAddrOfFields bank glyph line)) :=
  rfl

end Sys2Proof.Machine

open Sys2Proof.Machine

/-- Settles O5: the address is the number that the fields {bank, glyph, line} make, and the operation is one
read of the CG ROM at it. -/
theorem cgrReadReturnsTheAddressedByte : Obligations.CgrReadReturnsTheAddressedByte := by
  intro bank glyph line s
  exact ⟨_, cgAddrOfFields_toNat bank glyph line, exec_cgrRead bank glyph line s⟩

end

section
/-! SUPPORT. RPR.RESOLVE (R130): the whole next state with its two port records, the row start as a number, and
the two VRAM offsets of a slot (R131). -/

namespace Sys2Proof.Machine

/-- The resolver's next state: `row_start` and the records of the slot's two reads, high byte first; nothing
else changes (R130). -/
theorem resolveRow_eq (s : State) (y : Nat) :
    s.resolveRow y = { s with
      rowStart := s.resolve y
      ports.vramReads := s.ports.vramReads ++
        [(vaddr (slotAddr s.tableBase y), s.vread (slotAddr s.tableBase y)),
         (vaddr (slotAddr s.tableBase y + 1), s.vread (slotAddr s.tableBase y + 1))] } :=
  congrArg (fun reads => { s with rowStart := s.resolve y, ports.vramReads := reads })
    (List.append_assoc s.ports.vramReads [_] [_])

/-- The row start is (ptr - 0x8000) mod 0x8000, for the pointer in the slot (R130, R84, R132). -/
theorem resolve_toNat (s : State) (y : Nat) :
    ((s.resolve y).toNat : Int) =
      (256 * (s.vread (slotAddr s.tableBase y)).toNat + (s.vread (slotAddr s.tableBase y + 1)).toNat
        - 0x8000) % 0x8000 := by
  rw [State.resolve, rowStartOf_toNat, rowPointer_toNat]
  omega

/-- Slot 54 + y starts 216 + 4*y bytes into the table (R131). -/
theorem vaddr_slotAddr_toNat (tableBase : Offset) (y : Nat) :
    (vaddr (slotAddr tableBase y)).toNat = (tableBase.toNat + 216 + 4 * y) % 0x8000 := by
  rw [slotAddr_eq, vaddr_natCast]
  omega

/-- The slot's second byte stands one further, wrapped on its own (R131). -/
theorem vaddr_slotAddr_succ_toNat (tableBase : Offset) (y : Nat) :
    (vaddr (slotAddr tableBase y + 1)).toNat = (tableBase.toNat + 217 + 4 * y) % 0x8000 := by
  rw [slotAddr_eq, vaddr_toNat]
  omega

/-- RPR.RESOLVE completes (R130, R135). -/
theorem exec_rprResolve (y : BitVec 5) (s : State) :
    exec (.rprResolve y) s = .next (s.resolveRow y.toNat) :=
  rfl

end Sys2Proof.Machine

open Sys2Proof.Machine

/-- Settles O6: the slot's address is the obligation's by definition, the row start is the pointer's number less
0x8000, and the next state is written out whole. -/
theorem rprResolveComputesTheRowStart : Obligations.RprResolveComputesTheRowStart := by
  intro y s _
  exact ⟨_, exec_rprResolve y s, resolve_toNat s y.toNat, resolveRow_eq s y.toNat⟩

/-- Settles O7: the two port records stand at the slot's two offsets. -/
theorem rowReadsItsSlotOffsets : Obligations.RowReadsItsSlotOffsets := by
  intro y s _
  refine ⟨_, exec_rprResolve y s, ?_⟩
  simp only [resolveRow_eq, List.map_append, List.map_cons, List.map_nil, vaddr_slotAddr_toNat,
    vaddr_slotAddr_succ_toNat]

end

section
/-! SUPPORT. attribute_processor (R150 to R158): the next state of each operation, the attribute bits that each
stage reads, and what conceal and underline make of a cell's pixels. -/

namespace Sys2Proof.Machine

/-! ### The operations -/

theorem exec_apProcess (attr : Byte) (s : State) : exec (.apProcess attr) s = .next (s.attrProcess attr) :=
  rfl

theorem exec_apUnderline (attr : Byte) (s : State) :
    exec (.apUnderline attr) s = .next (s.underlineStage attr) :=
  rfl

theorem exec_apDim (attr : Byte) (s : State) : exec (.apDim attr) s = .next (s.dimStage attr) :=
  rfl

theorem exec_apConceal (attr : Byte) (s : State) : exec (.apConceal attr) s = .next (s.concealStage attr) :=
  rfl

theorem exec_apReverse (attr : Byte) (s : State) : exec (.apReverse attr) s = .next (s.reverseStage attr) :=
  rfl

theorem exec_apAltfont (attr : Byte) (s : State) :
    exec (.apAltfont attr) s = .next (s.selectBank (attr.getLsbD 0)) :=
  rfl

/-- The reserved bits' operations change nothing (R158). -/
theorem exec_apReserved (attr : Byte) (s : State) :
    exec (.apRsvd3 attr) s = .next s ∧ exec (.apRsvd6 attr) s = .next s ∧ exec (.apRsvd7 attr) s = .next s :=
  ⟨rfl, rfl, rfl⟩

/-- GR.LOOKUP completes on every code, bank and scanline (R180). -/
theorem exec_grLookup (code : Byte) (bank : BitVec 1) (scan : BitVec 4) (s : State) :
    exec (.grLookup code bank scan) s = .next (s.glyphLookup code (bank.getLsbD 0) scan) :=
  rfl

/-! ### The stages -/

/-- Steps 1 and 2 over the scanline register (R152, R153). -/
theorem underlineOverride_eq (attr rom : Byte) (scan : BitVec 4) :
    underlineOverride attr rom (isFinalScanline scan) =
      if attr.getLsbD 4 = true ∧ scan = 12#4 then 0xFF#8 else ~~~rom := by
  simp only [underlineOverride, isFinalScanline_eq, Bool.and_eq_true, decide_eq_true_iff]

theorem concealForeground_of_set {attr : Byte} (fore back : Pixel) (h : attr.getLsbD 2 = true) :
    concealForeground attr fore back = back :=
  if_pos h

theorem reverseMux_of_set {attr : Byte} (p : Byte) (h : attr.getLsbD 5 = true) : reverseMux attr p = ~~~p :=
  if_pos h

theorem isFinalScanline_of_le {scan : BitVec 4} (h : scan.toNat ≤ 11) : isFinalScanline scan = false :=
  decide_eq_false (Nat.ne_of_lt (Nat.lt_succ_of_le h))

theorem State.attrProcess_pattern (s : State) (attr : Byte) :
    (s.attrProcess attr).nets.pattern =
      reverseMux attr (underlineOverride attr s.nets.rom (isFinalScanline s.scan)) :=
  rfl

theorem State.attrProcess_fg (s : State) (attr : Byte) :
    (s.attrProcess attr).nets.fg = concealForeground attr (dimForeground attr) cellBackground :=
  rfl

theorem State.attrProcess_bg (s : State) (attr : Byte) : (s.attrProcess attr).nets.bg = cellBackground :=
  rfl

/-- The attribute byte reaches AP.PROCESS's next state through the results of `attrProcessFn` alone. -/
theorem attrProcess_congr {a b : Byte} {s : State}
    (h : attrProcessFn a s.nets.rom (isFinalScanline s.scan) =
      attrProcessFn b s.nets.rom (isFinalScanline s.scan)) : s.attrProcess a = s.attrProcess b := by
  simp only [State.attrProcess, h]

/-! ### The attribute bits that a stage reads -/

/-- Toggling the bits of a mask leaves the bits where the mask has a 0. -/
theorem getLsbD_xor_of_clear (attr : Byte) {mask : Byte} {i : Nat} (hi : mask.getLsbD i = false) :
    (attr ^^^ mask).getLsbD i = attr.getLsbD i := by
  rw [BitVec.getLsbD_xor, hi, Bool.xor_false]

/-- A toggle outside a mask does not show under the mask. -/
theorem xor_and_of_disjoint (attr : Byte) {toggle mask : Byte} (h : toggle &&& mask = 0#8) :
    (attr ^^^ toggle) &&& mask = attr &&& mask := by
  refine BitVec.eq_of_getLsbD_eq fun i _ => ?_
  rw [BitVec.getLsbD_and, BitVec.getLsbD_xor, Bool.and_xor_distrib_right, ← BitVec.getLsbD_and,
    ← BitVec.getLsbD_and, h, BitVec.getLsbD_zero, Bool.xor_false]

theorem reverseMux_congr {a b : Byte} (p : Byte) (h5 : a.getLsbD 5 = b.getLsbD 5) :
    reverseMux a p = reverseMux b p := by
  simp only [reverseMux, h5]

theorem underlineOverride_congr {a b : Byte} (rom : Byte) (final : Bool) (h4 : a.getLsbD 4 = b.getLsbD 4) :
    underlineOverride a rom final = underlineOverride b rom final := by
  simp only [underlineOverride, h4]

/-- AttrProcess depends on bits 1, 2, 4 and 5 of its attribute byte alone (R150, R158). -/
theorem attrProcessFn_congr_of_and_eq {a b : Byte} (h : a &&& 0x36#8 = b &&& 0x36#8) (rom : Byte)
    (final : Bool) : attrProcessFn a rom final = attrProcessFn b rom final :=
  attrProcessFn_congr rom final (getLsbD_eq_of_and_eq h (by decide)) (getLsbD_eq_of_and_eq h (by decide))
    (getLsbD_eq_of_and_eq h (by decide)) (getLsbD_eq_of_and_eq h (by decide))

/-- Off the final scanline underline_override does not act, so AttrProcess depends on bits 1, 2 and 5 alone
(R152, R153). -/
theorem attrProcessFn_congr_of_not_final {a b : Byte} (h : a &&& 0x26#8 = b &&& 0x26#8) (rom : Byte) :
    attrProcessFn a rom false = attrProcessFn b rom false := by
  have h1 : a.getLsbD 1 = b.getLsbD 1 := getLsbD_eq_of_and_eq h (by decide)
  have h2 : a.getLsbD 2 = b.getLsbD 2 := getLsbD_eq_of_and_eq h (by decide)
  have h5 : a.getLsbD 5 = b.getLsbD 5 := getLsbD_eq_of_and_eq h (by decide)
  have inactive : ∀ c : Byte, underlineOverride c rom false = ~~~rom := fun c =>
    underlineOverride_inactive rom fun hc => Bool.false_ne_true hc.2
  simp only [attrProcessFn, reverseMux, concealForeground, dimForeground, inactive, h1, h2, h5]

/-- On an underlined final scanline the ROM byte is ignored (R152). -/
theorem attrProcessFn_underlined {attr : Byte} (rom rom' : Byte) (h4 : attr.getLsbD 4 = true) :
    attrProcessFn attr rom true = attrProcessFn attr rom' true := by
  simp only [attrProcessFn, underlineOverride_final _ h4]

/-! ### The cell's pixels -/

/-- With the foreground equal to the background the pattern does not show (R155). -/
theorem expandPattern_same (p : Byte) (c : Pixel) : expandPattern p c c = Vector.replicate 9 c := by
  simp only [expandPattern, ite_self]
  rfl

/-- The spacing pixel is the background (R183). -/
theorem cellPixels_spacing (cgrom : List Host.Cell) (attr code : Byte) (scan : BitVec 4) :
    (cellPixels cgrom attr code scan)[8] = Pixel.bg :=
  rfl

/-- A concealed cell is all background, whatever its code, ROM, scanline and other bits (R155). -/
theorem cellPixels_concealed (cgrom : List Host.Cell) {attr : Byte} (code : Byte) (scan : BitVec 4)
    (h2 : attr.getLsbD 2 = true) : cellPixels cgrom attr code scan = Vector.replicate 9 .bg := by
  simp only [cellPixels, attrProcessFn, concealForeground_of_set _ _ h2, expandPattern_same, cellBackground]

/-- Under conceal no toggle that leaves bit 2 alone reaches a pixel (R155). -/
theorem cellPixels_xor_of_concealed (cgrom : List Host.Cell) {attr mask : Byte} (code : Byte)
    (scan : BitVec 4) (hmask : mask.getLsbD 2 = false) (h2 : attr.getLsbD 2 = true) :
    cellPixels cgrom (attr ^^^ mask) code scan = cellPixels cgrom attr code scan := by
  rw [cellPixels_concealed cgrom code scan h2,
    cellPixels_concealed cgrom code scan ((getLsbD_xor_of_clear attr hmask).trans h2)]

/-- The final scanline of an underlined cell does not depend on its code, on the CG ROM or on the font bank
(R152, R162 (a)). -/
theorem cellPixels_congr_of_underlined {a b : Byte} (h4 : a.getLsbD 4 = true)
    (h : a &&& 0x36#8 = b &&& 0x36#8) (cgrom cgrom' : List Host.Cell) (code code' : Byte) :
    cellPixels cgrom a code 12#4 = cellPixels cgrom' b code' 12#4 := by
  have hfinal : isFinalScanline 12#4 = true := rfl
  simp only [cellPixels, hfinal, ← attrProcessFn_congr_of_and_eq h,
    attrProcessFn_underlined _ (glyphLookupFn cgrom' code' (b.getLsbD 0) 12#4) h4]

/-! ### The font bank -/

/-- The CG address as a number: a bank is 0x0800 addresses, a glyph 16 (R181). -/
theorem glyphAddr_toNat (code : Byte) (bank : Bool) (scan : BitVec 4) :
    (glyphAddr code (bankOffsetOf bank) scan).toNat =
      2048 * bank.toNat + 16 * (code.toNat % 128) + scan.toNat := by
  rw [glyphAddr_eq, cgAddrOfFields_toNat, BitVec.toNat_ofBool, BitVec.extractLsb'_toNat, Nat.shiftRight_zero]

theorem State.glyphLookup_cgAddr (s : State) (code : Byte) (bank : Bool) (scan : BitVec 4) :
    (s.glyphLookup code bank scan).nets.cgAddr = glyphAddr code (bankOffsetOf bank) scan :=
  rfl

/-! ### FC.CELL_CODE and the attribute byte -/

/-- CELL_CODE leaves every position outside its cell's nine as before (R208). -/
theorem fbRead_cellCode_outside (s : State) {x y : Nat} (hc : s.col.toNat ≤ 79) (hx : x < 720)
    (hout : ¬ (y = 13 * s.row.toNat + s.scan.toNat ∧ 9 * s.col.toNat ≤ x ∧ x < 9 * s.col.toNat + 9)) :
    fbRead s.cellCode.fb x y = fbRead s.fb x y := by
  rw [cellCode_fb, fbRead_fbCell _ _ _ _ _ _ _ (Nat.lt_succ_of_le hc) hx, dif_neg hout]

/-- The attribute byte does not reach the cursor after CELL_CODE (R209). -/
theorem cellCode_cursor_attrL (s : State) (a : Byte) :
    ({ s with attrL := a } : State).cellCode.row = s.cellCode.row ∧
    ({ s with attrL := a } : State).cellCode.scan = s.cellCode.scan ∧
    ({ s with attrL := a } : State).cellCode.col = s.cellCode.col :=
  ⟨(advance_row _).trans (advance_row s.drawCell).symm, (advance_scan _).trans (advance_scan s.drawCell).symm,
    (advance_col _).trans (advance_col s.drawCell).symm⟩

end Sys2Proof.Machine

open Sys2Proof.Machine

/-- Settles O8: the stages of R150 are the obligation's by definition once `final` is read as scanline 12. -/
theorem apProcessFollowsTheFiveSteps : Obligations.ApProcessFollowsTheFiveSteps := by
  intro attr s
  rw [exec_apProcess, State.attrProcess, attrProcessFn, underlineOverride_eq]
  rfl

/-- Settles O9: underline_override is its formula on the scanline register; on scanline 12 the forced 0xFF goes
through reverse video, on the others bit 4 is not read. -/
theorem apUnderlineForcesTheFinalScanline : Obligations.ApUnderlineForcesTheFinalScanline := by
  refine ⟨fun attr s => ?_, fun attr s h4 hscan => ?_, fun attr s hscan => ?_⟩
  · rw [exec_apUnderline, State.underlineStage, underlineOverride_eq]
  · refine ⟨_, exec_apProcess attr s, ?_, fun h2 => concealForeground_of_set _ _ h2⟩
    rw [State.attrProcess_pattern, underlineOverride_eq, if_pos ⟨h4, hscan⟩]
    rfl
  · rw [exec_apProcess, exec_apProcess]
    refine congrArg _ (attrProcess_congr ?_)
    rw [isFinalScanline_of_le hscan]
    exact attrProcessFn_congr_of_not_final (xor_and_of_disjoint attr (by decide)) _

/-- Settles O10: the pattern's two stages read bits 4 and 5, which the toggle of bit 1 leaves. -/
theorem apDimSelectsTheIntensity : Obligations.ApDimSelectsTheIntensity := by
  refine ⟨exec_apDim, fun attr s => ?_, fun cgrom attr code scan => ⟨?_, ?_⟩⟩
  · refine ⟨_, _, exec_apProcess attr s, exec_apProcess _ s, ?_, rfl⟩
    have h4 : (attr ^^^ 0x02#8).getLsbD 4 = attr.getLsbD 4 := getLsbD_xor_of_clear attr (by decide)
    have h5 : (attr ^^^ 0x02#8).getLsbD 5 = attr.getLsbD 5 := getLsbD_xor_of_clear attr (by decide)
    rw [State.attrProcess_pattern, State.attrProcess_pattern, underlineOverride_congr _ _ h4,
      reverseMux_congr _ h5]
  · rw [cellPixels_spacing, cellPixels_spacing]
  · exact cellPixels_xor_of_concealed cgrom code scan (by decide)

/-- Settles O11: with the foreground made the background, every pixel of the cell is BG. -/
theorem apConcealHidesTheCell : Obligations.ApConcealHidesTheCell := by
  refine ⟨exec_apConceal, fun cgrom attr code scan h2 k => ?_⟩
  rw [cellPixels_concealed cgrom code scan h2]
  exact Vector.getElem_replicate k.isLt

/-- Settles O12: off an underlined final scanline the pattern is inverted twice, once as the base inversion. -/
theorem apReverseComplementsThePattern : Obligations.ApReverseComplementsThePattern := by
  refine ⟨exec_apReverse, fun attr s h5 hplain => ?_, fun cgrom attr code scan => ⟨?_, ?_⟩⟩
  · refine ⟨_, exec_apProcess attr s, ?_⟩
    rw [State.attrProcess_pattern, underlineOverride_eq, if_neg hplain, reverseMux_of_set _ h5,
      BitVec.not_not]
  · rw [cellPixels_spacing, cellPixels_spacing]
  · exact cellPixels_xor_of_concealed cgrom code scan (by decide)

/-- Settles O13: the bank is the CG address's top bit; neither an underlined final scanline nor a concealed cell
shows the glyph that it selects; and FC.CELL_CODE takes its positions and its advance from the cursor. -/
theorem apAltfontSelectsTheBank : Obligations.ApAltfontSelectsTheBank := by
  refine ⟨exec_apAltfont, fun code scan s => ?_, fun cgrom attr code scan h => ?_, fun s hr hs hc => ?_⟩
  · refine ⟨_, _, exec_grLookup code 0#1 scan s, exec_grLookup code 1#1 scan s, ?_⟩
    have h0 : ((0#1).getLsbD 0).toNat = 0 := rfl
    have h1 : ((1#1).getLsbD 0).toNat = 1 := rfl
    rw [State.glyphLookup_cgAddr, State.glyphLookup_cgAddr, glyphAddr_toNat, glyphAddr_toNat, h0, h1]
    omega
  · rcases h with ⟨h4, rfl⟩ | h2
    · exact cellPixels_congr_of_underlined ((getLsbD_xor_of_clear attr (by decide)).trans h4)
        (xor_and_of_disjoint attr (by decide)) cgrom cgrom code code
    · exact cellPixels_xor_of_concealed cgrom code scan (by decide) h2
  · obtain ⟨hrow, hscan, hcol⟩ := cellCode_cursor_attrL s (s.attrL ^^^ 0x01#8)
    exact ⟨_, _, exec_fcCellCode_of_ranges hr hs hc, exec_fcCellCode_of_ranges hr hs hc,
      fun x y hx _ hout =>
        ⟨fbRead_cellCode_outside s hc hx hout, fbRead_cellCode_outside { s with attrL := _ } hc hx hout⟩,
      cellCode_state_attrL s _, hrow, hscan, hcol⟩

/-- Settles O14: bits 1, 2, 4 and 5, all that AttrProcess reads, are kept by the mask 0x37. -/
theorem apReservedBitsHaveNoEffect : Obligations.ApReservedBitsHaveNoEffect := by
  refine ⟨exec_apReserved, fun attr s => ?_⟩
  have hmask : attr &&& 0x36#8 = attr &&& 0x37#8 &&& 0x36#8 := (BitVec.and_assoc attr 0x37#8 0x36#8).symm
  rw [exec_apProcess, exec_apProcess]
  exact congrArg _ (attrProcess_congr (attrProcessFn_congr_of_and_eq hmask _ _))

end

section
/-! SUPPORT. glyph_rasterizer (R180 to R183): the bank operand as a Boolean and as a number, the next state of
GR.EXPAND, and what the nine positions that FC.CELL_CODE writes hold after it. -/

namespace Sys2Proof.Machine

/-! ### The bank operand -/

/-- The bank operand's one bit is the operand itself. -/
theorem getLsbD_zero_eq_true_iff (bank : BitVec 1) : bank.getLsbD 0 = true ↔ bank = 1#1 := by
  obtain rfl | rfl := BitVec.eq_zero_or_eq_one bank <;> decide

theorem toNat_getLsbD_zero (bank : BitVec 1) : (bank.getLsbD 0).toNat = bank.toNat := by
  obtain rfl | rfl := BitVec.eq_zero_or_eq_one bank <;> rfl

/-- The bank offset over the operand (R180). -/
theorem bankOffsetOf_getLsbD_zero (bank : BitVec 1) :
    bankOffsetOf (bank.getLsbD 0) = if bank = 1#1 then 0x800#12 else 0x000#12 := by
  simp only [bankOffsetOf, getLsbD_zero_eq_true_iff]

/-! ### GR.EXPAND -/

/-- GR.EXPAND completes on every pattern (R182). -/
theorem exec_grExpand (p : Byte) (s : State) : exec (.grExpand p) s = .next (s.expand p) :=
  rfl

/-! ### FC.CELL_CODE and the cell's nine positions -/

/-- After CELL_CODE each of the cell's nine positions holds its pixel of the cell (R202, R208). -/
theorem fbRead_cellCode_inside (s : State) (hc : s.col.toNat ≤ 79) (k : Fin 9) :
    fbRead s.cellCode.fb (9 * s.col.toNat + k.val) (13 * s.row.toNat + s.scan.toNat) =
      (cellPixels s.cgrom s.attrL (s.vread (cellAddr s.rowStart s.col.toNat + 1)) s.scan)[k] := by
  have hk := k.isLt
  rw [cellCode_fb, fbRead_fbCell _ _ _ _ _ _ _ (by omega) (by omega), dif_pos (by omega)]
  simp only [Nat.add_sub_cancel_left, Fin.getElem_fin]

end Sys2Proof.Machine

open Sys2Proof.Machine

/-- Settles O19: GR.LOOKUP's address is the glyph address, whose number is made of the three operands alone. -/
theorem lookupAddressIsBankCodeScan : Obligations.LookupAddressIsBankCodeScan := by
  intro code bank scan s
  refine ⟨_, exec_grLookup code bank scan s, ?_⟩
  rw [State.glyphLookup_cgAddr, glyphAddr_toNat, toNat_getLsbD_zero]

/-- Settles O23: the cell's ninth position holds its ninth pixel, which is the spacing pixel. -/
theorem spacingColumnIsBackground : Obligations.SpacingColumnIsBackground := by
  intro s hr hs hc
  exact ⟨_, exec_fcCellCode_of_ranges hr hs hc,
    (fbRead_cellCode_inside s hc 8).trans (cellPixels_spacing _ _ _ _)⟩

/-- Settles O18: the next state is the CG ROM's read at the glyph address, the bank offset written as the
obligation's test of the operand. -/
theorem grLookupReadsTheFormulaAddress : Obligations.GrLookupReadsTheFormulaAddress := by
  intro code bank scan s
  rw [exec_grLookup, State.glyphLookup, State.selectBank, bankOffsetOf_getLsbD_zero]
  rfl

/-- Settles O21: only the nine pixels are written, each by the expander's equation. -/
theorem grExpandMapsBitsToPixels : Obligations.GrExpandMapsBitsToPixels := by
  intro p s
  exact ⟨_, exec_grExpand p s, rfl, expandPattern_get p s.nets.fg s.nets.bg⟩

end

section
/-! SUPPORT. frame_composer_fsm (R205, R206, R209): the next states of FC.ROW_HI and FC.ROW_LO, the row start
that the latched high byte makes, and the cursor after the advance as numbers. -/

namespace Sys2Proof.Machine

/-! ### FC.ROW_HI and FC.ROW_LO -/

/-- FC.ROW_HI completes: the slot's high byte latched, its read on the VRAM port (R205). -/
theorem exec_fcRowHi (s : State) :
    exec .fcRowHi s = .next
      { s.noteVRead (slotAddr s.tableBase s.row.toNat) with
        ptrHi := s.vread (slotAddr s.tableBase s.row.toNat)
        state := fsmRowLo } :=
  rfl

/-- FC.ROW_LO completes: the row start from the latched high byte and the slot's low byte, the cursor at the
row's first cell (R206). -/
theorem exec_fcRowLo (s : State) :
    exec .fcRowLo s = .next
      { s.noteVRead (slotAddr s.tableBase s.row.toNat + 1) with
        rowStart := rowStartOf (rowPointer s.ptrHi (s.vread (slotAddr s.tableBase s.row.toNat + 1)))
        scan := 0
        col := 0
        state := fsmCellAttr } :=
  rfl

/-- The row start of a pointer made of two bytes is (ptr - 0x8000) mod 0x8000 (R84, R206). -/
theorem rowStartOf_rowPointer_toNat (hi lo : Byte) :
    ((rowStartOf (rowPointer hi lo)).toNat : Int) = (256 * hi.toNat + lo.toNat - 0x8000) % 0x8000 := by
  rw [rowStartOf_toNat, rowPointer_toNat]
  omega

/-- While `ptr_hi` holds the slot's present high byte, the row start that ROW_LO forms is Resolve(row)
(R206). -/
theorem rowStart_of_latched {s : State} (h : s.ptrHi = s.vread (slotAddr s.tableBase s.row.toNat)) :
    rowStartOf (rowPointer s.ptrHi (s.vread (slotAddr s.tableBase s.row.toNat + 1))) =
      s.resolve s.row.toNat := by
  rw [h, State.resolve]

/-! ### The cursor after the advance -/

theorem State.drawCell_frameDone (s : State) : s.drawCell.ports.frameDone = s.ports.frameDone :=
  rfl

/-- A counter below a bound that its width holds does not wrap when it is raised. -/
theorem toNat_add_one_of_lt {w n : Nat} {x : BitVec w} (h : x.toNat < n) (hn : n < 2 ^ w) :
    (x + 1).toNat = x.toNat + 1 := by
  have hwidth : 1 < 2 ^ w := by omega
  have hone : (1 : BitVec w).toNat = 1 := Nat.mod_eq_of_lt hwidth
  rw [BitVec.toNat_add_of_lt (by omega), hone]

/-- The advance as numbers: a counter that it raises is below its last value, so it does not wrap (R209). -/
theorem advance_cursor (s : State) :
    (s.advance.state.toNat, s.advance.row.toNat, s.advance.scan.toNat, s.advance.col.toNat,
      s.advance.ports.frameDone) =
      if s.col.toNat < 79 then (3, s.row.toNat, s.scan.toNat, s.col.toNat + 1, s.ports.frameDone)
      else if s.scan.toNat < 12 then (3, s.row.toNat, s.scan.toNat + 1, 0, s.ports.frameDone)
      else if s.row.toNat < 26 then (1, s.row.toNat + 1, s.scan.toNat, s.col.toNat, s.ports.frameDone)
      else (0, s.row.toNat, s.scan.toNat, s.col.toNat, true) := by
  rcases advance_cases s with ⟨hcol, h⟩ | ⟨hcol, hscan, h⟩ | ⟨hcol, hscan, hrow, h⟩ | ⟨hcol, hscan, hrow, h⟩
  · simp only [h, if_pos hcol, toNat_add_one_of_lt hcol (by decide)]
    rfl
  · simp only [h, if_neg hcol, if_pos hscan, toNat_add_one_of_lt hscan (by decide)]
    rfl
  · simp only [h, if_neg hcol, if_neg hscan, if_pos hrow, toNat_add_one_of_lt hrow (by decide)]
    rfl
  · simp only [h, if_neg hcol, if_neg hscan, if_neg hrow]
    rfl

end Sys2Proof.Machine

open Sys2Proof.Machine

/-- Settles O26: the row start is the number of the pointer that the two bytes make; after ROW_HI the latched
byte is the slot's, and the VRAM and the strap are as they were, so it is Resolve(row). -/
theorem fcRowLoSetsTheRowStart : Obligations.FcRowLoSetsTheRowStart := by
  refine ⟨fun s => ⟨_, exec_fcRowLo s, rowStartOf_rowPointer_toNat _ _, rfl⟩, fun s => ?_⟩
  exact ⟨_, _, exec_fcRowHi s, exec_fcRowLo _,
    (rowStart_of_latched rfl).trans (resolve_congr rfl rfl s.row.toNat)⟩

/-- Settles O29: drawing the cell leaves the cursor and `frame_done`, so the advance's four cases are the
obligation's. -/
theorem advanceGoesColumnsScanlinesRows : Obligations.AdvanceGoesColumnsScanlinesRows := by
  intro s hr hs hc hdone
  refine ⟨_, exec_fcCellCode_of_ranges hr hs hc, ?_⟩
  simp only [State.cellCode, advance_cursor, State.drawCell_row, State.drawCell_scan, State.drawCell_col,
    State.drawCell_frameDone, hdone]

end

section
/-! SUPPORT. That the block's step completes (R240): each of the sequencer's five operations answers a next
state, FC.CELL_CODE because the cursor's ranges keep the cell inside the framebuffer (R241). -/

namespace Sys2Proof.Machine

/-- FC.IDLE completes, whatever `frame_tick` is (R204). -/
theorem execFcIdle_completes (s : State) : ∃ t, execFcIdle s = .next t := by
  cases htick : s.ports.frameTick
  · exact ⟨{ s with state := fsmIdle }, by simp [execFcIdle, htick]⟩
  · exact ⟨{ s with row := 0, state := fsmRowHi }, by simp [execFcIdle, htick]⟩

/-- In each of the five FSM states, with the cursor in its ranges, the sequencer's operation completes. -/
theorem operate_sequencer_completes {s : State} (hstate : s.state.toNat ≤ 4) (hrow : s.row.toNat ≤ 26)
    (hscan : s.scan.toNat ≤ 12) (hcol : s.col.toNat ≤ 79) : ∃ t, operate .sequencer s = .next t := by
  rcases fsm_cases hstate with hidle | hrowHi | hrowLo | hcellAttr | hcellCode
  · rw [operate_idle hidle]
    exact execFcIdle_completes s
  · exact ⟨_, operate_rowHi hrowHi⟩
  · exact ⟨_, operate_rowLo hrowLo⟩
  · exact ⟨_, operate_cellAttr hcellAttr⟩
  · exact ⟨_, (operate_cellCode hcellCode).trans (exec_fcCellCode_of_ranges hrow hscan hcol)⟩

/-- The hardware's host never asks for one unit alone (log entry 8). -/
theorem inputs_ne_operate {s : State} (h : s.hardwareOnly) (site : Site) (rest : List Input) :
    s.inputs ≠ .operate site :: rest := by
  intro hinputs
  simp [State.hardwareOnly, hinputs, Input.ofHardware] at h

end Sys2Proof.Machine

open Sys2Proof.Machine

/-- Settles O42, by the kinds of step: the start of a block step leaves the registers, so its operation
completes; a host write and a reset always do; the model's own request is not the hardware's. -/
theorem noInputStopsTheBlock : Obligations.NoInputStopsTheBlock := by
  intro s ⟨_, _, _, hstate, hrow, hscan, hcol⟩ hhardware
  rcases step_cases s with
    ⟨tick, _, hstep⟩ | ⟨o, b, rest, _, hstep⟩ | ⟨rest, _, hstep⟩ | ⟨site, rest, hinputs, _⟩
  · rw [hstep]
    exact operate_sequencer_completes (s := s.beginStep tick s.inputs.tail) hstate hrow hscan hcol
  · exact ⟨_, hstep⟩
  · exact ⟨_, hstep⟩
  · exact absurd hinputs (inputs_ne_operate hhardware site rest)

end

section
/-! SUPPORT. The decoder and the encoder (R80 to R101): fields read back from a word and put together again, the
operation at each site, and that the two are inverse to each other there. -/

namespace Sys2Proof

open Sys2Proof.Machine

/-! ### From the operation to the word and back -/

/-- The CGADDR12 fields read back from their word (R85). -/
theorem decodeFields_cgAddress (bank : BitVec 1) (glyph : BitVec 7) (line : BitVec 4) :
    decodeFields .cgAddress ((bank ++ glyph ++ line).setWidth 16) = .ok (.cgrRead bank glyph line) := by
  have hline : ((bank ++ glyph ++ line).setWidth 16).extractLsb' 0 4 = line := by
    rw [BitVec.extractLsb'_setWidth_of_le (by decide), BitVec.extractLsb'_append_eq_right]
  have hglyph : ((bank ++ glyph ++ line).setWidth 16).extractLsb' 4 7 = glyph := by
    rw [BitVec.extractLsb'_setWidth_of_le (by decide), BitVec.extractLsb'_append_eq_of_le (by decide),
      BitVec.extractLsb'_append_eq_right]
  have hbank : ((bank ++ glyph ++ line).setWidth 16).extractLsb' 11 1 = bank := by
    rw [BitVec.extractLsb'_setWidth_of_le (by decide), BitVec.extractLsb'_append_eq_of_le (by decide),
      BitVec.extractLsb'_append_eq_left]
  rw [decodeFields, hline, hglyph, hbank]

/-- The lookup's word holds the CGADDR12 fields below the code's bit 7 (log entry 12). -/
theorem decodeFields_lookup (bit7 bank : BitVec 1) (glyph : BitVec 7) (scan : BitVec 4) :
    decodeFields .lookup ((bit7 ++ bank ++ glyph ++ scan).setWidth 16) =
      .ok (.grLookup (bit7 ++ glyph) bank scan) := by
  have hscan : ((bit7 ++ bank ++ glyph ++ scan).setWidth 16).extractLsb' 0 4 = scan := by
    rw [BitVec.extractLsb'_setWidth_of_le (by decide), BitVec.extractLsb'_append_eq_right]
  have hglyph : ((bit7 ++ bank ++ glyph ++ scan).setWidth 16).extractLsb' 4 7 = glyph := by
    rw [BitVec.extractLsb'_setWidth_of_le (by decide), BitVec.extractLsb'_append_eq_of_le (by decide),
      BitVec.extractLsb'_append_eq_right]
  have hbank : ((bit7 ++ bank ++ glyph ++ scan).setWidth 16).extractLsb' 11 1 = bank := by
    rw [BitVec.extractLsb'_setWidth_of_le (by decide), BitVec.extractLsb'_append_eq_of_le (by decide),
      BitVec.extractLsb'_append_eq_of_le (by decide), BitVec.extractLsb'_append_eq_right]
  have hbit7 : ((bit7 ++ bank ++ glyph ++ scan).setWidth 16).extractLsb' 12 1 = bit7 := by
    rw [BitVec.extractLsb'_setWidth_of_le (by decide), BitVec.extractLsb'_append_eq_of_le (by decide),
      BitVec.extractLsb'_append_eq_of_le (by decide), BitVec.extractLsb'_append_eq_left]
  rw [decodeFields, hscan, hglyph, hbank, hbit7]

/-- A code byte is its bit 7 above its glyph index (R94). -/
theorem codeBit7_append_glyph (code : Byte) : code.extractLsb' 7 1 ++ code.extractLsb' 0 7 = code := by
  rw [BitVec.extractLsb'_append_extractLsb'_eq_extractLsb' (Nat.zero_add 7).symm, BitVec.extractLsb'_eq_self]

theorem decodeFields_resolver {y : BitVec 5} (h : y.toNat < 27) :
    decodeFields .resolver (y.setWidth 16) = .ok (.rprResolve y) := by
  rw [decodeFields, extractLsb'_setWidth (by decide), if_pos h]

theorem decodeFields_attrByte (attr : Byte) :
    decodeFields .attrByte (attr.setWidth 16) = .ok (.apProcess attr) := by
  rw [decodeFields, extractLsb'_setWidth (by decide)]

theorem decodeFields_expander (p : Byte) : decodeFields .expander (p.setWidth 16) = .ok (.grExpand p) := by
  rw [decodeFields, extractLsb'_setWidth (by decide)]

/-- A byte that has a function's bit decodes to that function (mask and match of the table). -/
theorem decode_attrBit {f : AttrFn} {attr : Byte} (h : f.selectedBy attr = true) :
    decode (.attrBit f) (attr.setWidth 16) = .ok (attrBitInstr f attr) := by
  rw [decode_of_fits (toNat_setWidth_lt attr), decodeFields, extractLsb'_setWidth (by decide), if_pos h]

/-! ### From the word to the operation and back -/

theorem encode_attrBitInstr (f : AttrFn) (attr : Byte) :
    encode (attrBitInstr f attr) = (.attrBit f, attr.setWidth 16) := by
  cases f <;> rfl

theorem wellFormed_attrBitInstr (f : AttrFn) (attr : Byte) :
    (attrBitInstr f attr).wellFormed = f.selectedBy attr := by
  cases f <;> rfl

/-- The CGADDR12 fields of a word, put together, are its low twelve bits (R85). -/
theorem cgFields_of_word (w : BitVec 16) :
    w.extractLsb' 11 1 ++ w.extractLsb' 4 7 ++ w.extractLsb' 0 4 = w.extractLsb' 0 12 := by
  rw [BitVec.extractLsb'_append_extractLsb'_eq_extractLsb' (by decide),
    BitVec.extractLsb'_append_extractLsb'_eq_extractLsb' (by decide)]

/-- The lookup's fields of a word, put together, are its low thirteen bits (log entry 12). -/
theorem lookupFields_of_word (w : BitVec 16) :
    w.extractLsb' 12 1 ++ w.extractLsb' 11 1 ++ w.extractLsb' 4 7 ++ w.extractLsb' 0 4 =
      w.extractLsb' 0 13 := by
  rw [BitVec.extractLsb'_append_extractLsb'_eq_extractLsb' (by decide),
    BitVec.extractLsb'_append_extractLsb'_eq_extractLsb' (by decide),
    BitVec.extractLsb'_append_extractLsb'_eq_extractLsb' (by decide)]

/-- The code that selects a transition is that transition's word (R89). -/
theorem encode_of_decodeFsm {code : BitVec 3} {i : Instr} (h : decodeFsm code = .ok i) :
    i.wellFormed = true ∧ encode i = (.sequencer, code.setWidth 16) := by
  unfold decodeFsm at h
  split_ifs at h with hidle hrowHi hrowLo hcellAttr hcellCode
  all_goals
    cases h
    subst_vars
    exact ⟨rfl, rfl⟩

/-- The word of the operation that fitting fields decode to is the word they stand in. -/
theorem encode_of_decodeFields {site : Site} {w : BitVec 16} {i : Instr} (hfits : w.toNat < 2 ^ site.width)
    (h : decodeFields site w = .ok i) : i.wellFormed = true ∧ encode i = (site, w) := by
  have hword : (w.extractLsb' 0 site.width).setWidth 16 = w := setWidth_extractLsb' hfits
  cases site with
  | sequencer =>
    obtain ⟨hwf, hencode⟩ := encode_of_decodeFsm h
    exact ⟨hwf, hencode.trans (congrArg (Prod.mk _) hword)⟩
  | frameCommand =>
    cases h
    exact ⟨rfl, congrArg (Prod.mk _) (BitVec.eq_of_toNat_eq (Nat.lt_one_iff.1 hfits).symm)⟩
  | resolver =>
    simp only [decodeFields] at h
    split at h
    case isTrue hrow =>
      cases h
      exact ⟨decide_eq_true hrow, congrArg (Prod.mk _) hword⟩
    case isFalse => cases h
  | attrByte =>
    cases h
    exact ⟨rfl, congrArg (Prod.mk _) hword⟩
  | attrBit f =>
    simp only [decodeFields] at h
    split at h
    case isTrue hselected =>
      cases h
      exact ⟨(wellFormed_attrBitInstr f _).trans hselected,
        (encode_attrBitInstr f _).trans (congrArg (Prod.mk _) hword)⟩
    case isFalse => cases h
  | cgAddress =>
    cases h
    exact ⟨rfl, by rw [encode, cgFields_of_word]; exact congrArg (Prod.mk _) hword⟩
  | lookup =>
    cases h
    refine ⟨rfl, ?_⟩
    rw [encode, BitVec.extractLsb'_append_eq_left, BitVec.extractLsb'_append_eq_right, lookupFields_of_word]
    exact congrArg (Prod.mk _) hword
  | expander =>
    cases h
    exact ⟨rfl, congrArg (Prod.mk _) hword⟩

end Sys2Proof

open Sys2Proof Sys2Proof.Machine

/-- Settles O1, by the operation: its word fits its site, and the fields read there are the operands that the
encoder put there. -/
theorem decodeOfEncodeIsTheInstruction : Obligations.DecodeOfEncodeIsTheInstruction := by
  intro i hwf
  cases i with
  | cgrRead bank glyph line =>
    exact (decode_of_fits (Laws.WordFits.cgrRead bank glyph line)).trans (decodeFields_cgAddress bank glyph line)
  | rprResolve y =>
    exact (decode_of_fits (Laws.WordFits.rprResolve y)).trans (decodeFields_resolver (of_decide_eq_true hwf))
  | apProcess attr => exact (decode_of_fits (Laws.WordFits.apProcess attr)).trans (decodeFields_attrByte attr)
  | apAltfont attr => exact decode_attrBit (f := .altfont) hwf
  | apDim attr => exact decode_attrBit (f := .dim) hwf
  | apConceal attr => exact decode_attrBit (f := .conceal) hwf
  | apRsvd3 attr => exact decode_attrBit (f := .rsvd3) hwf
  | apUnderline attr => exact decode_attrBit (f := .underline) hwf
  | apReverse attr => exact decode_attrBit (f := .reverse) hwf
  | apRsvd6 attr => exact decode_attrBit (f := .rsvd6) hwf
  | apRsvd7 attr => exact decode_attrBit (f := .rsvd7) hwf
  | grLookup code bank scan =>
    refine (decode_of_fits (Laws.WordFits.grLookup code bank scan)).trans ?_
    exact (decodeFields_lookup _ bank _ scan).trans (by rw [codeBit7_append_glyph])
  | grExpand p => exact (decode_of_fits (Laws.WordFits.grExpand p)).trans (decodeFields_expander p)
  | fcIdle => exact decode_sequencer fsmIdle
  | fcRowHi => exact decode_sequencer fsmRowHi
  | fcRowLo => exact decode_sequencer fsmRowLo
  | fcCellAttr => exact decode_sequencer fsmCellAttr
  | fcCellCode => exact decode_sequencer fsmCellCode
  | fcRenderFrame => exact decode_of_fits Laws.WordFits.fcRenderFrame

/-- Settles O2: a word that decodes fits its site, so no bit of it stands outside the fields that the encoder puts
together again. -/
theorem encodeOfDecodeIsTheWord : Obligations.EncodeOfDecodeIsTheWord := by
  intro site w i h
  have hfits : w.toNat < 2 ^ site.width := fits_of_decode h
  rw [decode_of_fits hfits] at h
  exact encode_of_decodeFields hfits h

/-- Settles O3: each word is a closed term, which the decoder evaluates. -/
theorem writtenOutWordsDecode : Obligations.WrittenOutWordsDecode :=
  ⟨rfl, rfl, rfl, rfl, rfl, rfl, rfl, rfl⟩

/-- Settles O4: the sequencer's word is its FSM3 code, and `decodeFsm` is the obligation's table. -/
theorem fsmCodesSelectTheTransitions : Obligations.FsmCodesSelectTheTransitions :=
  decode_sequencer

end

section
/-! SUPPORT. What exec can do, said once: the next states of the sequencer's operations, the fields that a drawn
cell and a whole frame leave, and the one inversion lemma from which frame and invariant follow. -/

namespace Sys2Proof.Machine

/-! ### The sequencer's operations -/

/-- FC.IDLE on a tick: ROW_HI of row 0 (R204). -/
theorem exec_fcIdle_of_tick {s : State} (h : s.ports.frameTick = true) :
    exec .fcIdle s = .next { s with row := 0, state := fsmRowHi } :=
  if_pos h

/-- FC.IDLE without a tick stays (R204). -/
theorem exec_fcIdle_of_no_tick {s : State} (h : s.ports.frameTick = false) :
    exec .fcIdle s = .next { s with state := fsmIdle } :=
  if_neg (ne_true_of_eq_false h)

/-- FC.CELL_ATTR completes: the attribute byte latched, its read on the VRAM port (R207). -/
theorem exec_fcCellAttr (s : State) :
    exec .fcCellAttr s = .next
      { s.noteVRead (cellAddr s.rowStart s.col.toNat) with
        attrL := s.vread (cellAddr s.rowStart s.col.toNat)
        state := fsmCellCode } :=
  rfl

/-- FC.CELL_CODE stops exactly on a cell outside the framebuffer (R56; log entry 17). -/
theorem exec_fcCellCode_fault_iff (s : State) :
    exec .fcCellCode s = .fault .framebufferOutOfRange ↔ ¬ s.cellInRange = true := by
  have hexec : exec .fcCellCode s =
      if s.cellInRange then .next s.cellCode else .fault .framebufferOutOfRange := rfl
  by_cases h : s.cellInRange = true <;> simp [hexec, h]

/-- FC.RENDER_FRAME while busy does nothing (R211; log entry 13). -/
theorem exec_fcRenderFrame_busy {s : State} (h : s.state ≠ fsmIdle) : exec .fcRenderFrame s = .next s :=
  if_neg h

/-! ### A cell and a frame: what they leave -/

@[simp] theorem State.cellCode_vram (s : State) : s.cellCode.vram = s.vram := advance_vram s.drawCell
@[simp] theorem State.cellCode_cgrom (s : State) : s.cellCode.cgrom = s.cgrom := advance_cgrom s.drawCell
@[simp] theorem State.cellCode_tableBase (s : State) : s.cellCode.tableBase = s.tableBase :=
  advance_tableBase s.drawCell
@[simp] theorem State.cellCode_rowStart (s : State) : s.cellCode.rowStart = s.rowStart :=
  advance_rowStart s.drawCell
@[simp] theorem State.cellCode_ptrHi (s : State) : s.cellCode.ptrHi = s.ptrHi := advance_ptrHi s.drawCell
@[simp] theorem State.cellCode_attrL (s : State) : s.cellCode.attrL = s.attrL := advance_attrL s.drawCell
@[simp] theorem State.cellCode_inputs (s : State) : s.cellCode.inputs = s.inputs := advance_inputs s.drawCell
@[simp] theorem State.cellCode_draws (s : State) : s.cellCode.draws = s.draws := advance_draws s.drawCell

/-- The advance touches no port but `frame_done` (R209, R37). -/
theorem State.cellCode_ports (s : State) :
    s.cellCode.ports.frameTick = s.ports.frameTick ∧ s.cellCode.ports.vramReads = s.drawCell.ports.vramReads ∧
    s.cellCode.ports.cgRead = s.drawCell.ports.cgRead ∧ s.cellCode.ports.fbWrite = s.drawCell.ports.fbWrite := by
  rw [State.cellCode, advance_ports]
  split <;> exact ⟨rfl, rfl, rfl, rfl⟩

/-- The last cell of a frame ends in IDLE with `frame_done`, the cursor where it was (R209, R210). -/
theorem cellCode_of_last {s : State} (hr : s.row = 26) (hs : s.scan = 12) (hc : s.col = 79) :
    s.cellCode = { s.drawCell with state := fsmIdle, ports.frameDone := true } := by
  have hnone : ¬ s.drawCell.col.toNat < 79 ∧ ¬ s.drawCell.scan.toNat < 12 ∧ ¬ s.drawCell.row.toNat < 26 := by
    rw [State.drawCell_row, State.drawCell_scan, State.drawCell_col, hr, hs, hc]
    decide
  rcases advance_cases s.drawCell with ⟨hcol, _⟩ | ⟨_, hscan, _⟩ | ⟨_, _, hrow, _⟩ | ⟨_, _, _, hlast⟩
  · exact absurd hcol hnone.1
  · exact absurd hscan hnone.2.1
  · exact absurd hrow hnone.2.2
  · exact hlast

/-- A whole frame is the last cell's step with the framebuffer of RenderFrame (log entry 13). -/
theorem State.frame_eq (s : State) :
    s.frame = { s.atLastCell.drawCell with
      state := fsmIdle, ports.frameDone := true, fb := s.renderFrame } := by
  rw [State.frame, cellCode_of_last (State.atLastCell_row s) (State.atLastCell_scan s) (State.atLastCell_col s)]

/-! ### A cell's numbers on the ports -/

/-- The font bank as a number is attribute bit 0 (R157). -/
theorem toNat_fontBank (attr : Byte) : (attr.getLsbD 0).toNat = attr.toNat % 2 := by
  rw [BitVec.getLsbD, Nat.toNat_testBit, pow_zero, Nat.div_one]

/-- A cell's CG address as a number (R181). -/
theorem cellNets_cgAddr_toNat (cgrom : List Host.Cell) (attr code : Byte) (scan : BitVec 4) :
    (cellNets cgrom attr code scan).cgAddr.toNat =
      2048 * (attr.toNat % 2) + 16 * (code.toNat % 128) + scan.toNat :=
  (glyphAddr_toNat code (attr.getLsbD 0) scan).trans (by rw [toNat_fontBank])

/-- `fb_x` holds every cell's x (R37, R202). -/
theorem burstX_toNat {col : Nat} (hc : col ≤ 79) : (BitVec.ofNat 10 (cellX col)).toNat = 9 * col :=
  Nat.mod_eq_of_lt (show 9 * col < 1024 by omega)

/-- `fb_y` holds every line of the frame (R37, R202). -/
theorem burstY_toNat {row scan : Nat} (hr : row ≤ 26) (hs : scan ≤ 12) :
    (BitVec.ofNat 9 (cellY row scan)).toNat = 13 * row + scan :=
  Nat.mod_eq_of_lt (show 13 * row + scan < 512 by omega)

/-! ### The inversion -/

/-- The next states that an operation can answer: a unit run alone touches `row_start`, the ports and the nets
only; each of the sequencer's operations has its own. -/
inductive ExecResult (s : State) : State → Prop
  | unit (rowStart : Offset) (ports : Ports) (nets : Nets) :
    ExecResult s { s with rowStart := rowStart, ports := ports, nets := nets }
  | idle : ExecResult s { s with state := fsmIdle }
  | tick : ExecResult s { s with row := 0, state := fsmRowHi }
  | rowHi : ExecResult s
    { s.noteVRead (slotAddr s.tableBase s.row.toNat) with
      ptrHi := s.vread (slotAddr s.tableBase s.row.toNat)
      state := fsmRowLo }
  | rowLo : ExecResult s
    { s.noteVRead (slotAddr s.tableBase s.row.toNat + 1) with
      rowStart := rowStartOf (rowPointer s.ptrHi (s.vread (slotAddr s.tableBase s.row.toNat + 1)))
      scan := 0
      col := 0
      state := fsmCellAttr }
  | cellAttr : ExecResult s
    { s.noteVRead (cellAddr s.rowStart s.col.toNat) with
      attrL := s.vread (cellAddr s.rowStart s.col.toNat)
      state := fsmCellCode }
  | cellCode : s.cellInRange = true → ExecResult s s.cellCode
  | frame : ExecResult s s.frame

/-- An operation that completes answers one of the next states of `ExecResult`. -/
theorem exec_result {i : Instr} {s t : State} (h : exec i s = .next t) : ExecResult s t := by
  cases i with
  | cgrRead | rprResolve | apProcess | apAltfont | apDim | apConceal | apRsvd3 | apUnderline | apReverse | apRsvd6
  | apRsvd7 | grLookup | grExpand =>
    cases h
    exact .unit _ _ _
  | fcIdle =>
    cases htick : s.ports.frameTick
    · cases (exec_fcIdle_of_no_tick htick).symm.trans h
      exact .idle
    · cases (exec_fcIdle_of_tick htick).symm.trans h
      exact .tick
  | fcRowHi =>
    cases h
    exact .rowHi
  | fcRowLo =>
    cases h
    exact .rowLo
  | fcCellAttr =>
    cases h
    exact .cellAttr
  | fcCellCode =>
    obtain ⟨hrange, rfl⟩ := execFcCellCode_next h
    exact .cellCode hrange
  | fcRenderFrame =>
    by_cases hidle : s.state = fsmIdle
    · cases (exec_fcRenderFrame_idle hidle).symm.trans h
      exact .frame
    · cases (exec_fcRenderFrame_busy hidle).symm.trans h
      exact .unit s.rowStart s.ports s.nets

/-- Every operation but FC.CELL_CODE completes in every state (R240). -/
theorem exec_completes {i : Instr} (s : State) (hi : i ≠ .fcCellCode) : ∃ t, exec i s = .next t := by
  cases i with
  | fcIdle => exact execFcIdle_completes s
  | fcCellCode => exact absurd rfl hi
  | fcRenderFrame =>
    by_cases hidle : s.state = fsmIdle
    · exact ⟨_, exec_fcRenderFrame_idle hidle⟩
    · exact ⟨_, exec_fcRenderFrame_busy hidle⟩
  | _ => exact ⟨_, rfl⟩

/-- No operation writes VRAM, the CG ROM or the strap (R59, R39). -/
theorem exec_keeps_memories {i : Instr} {s t : State} (h : exec i s = .next t) :
    t.vram = s.vram ∧ t.cgrom = s.cgrom ∧ t.tableBase = s.tableBase := by
  cases exec_result h with
  | unit | idle | tick | rowHi | rowLo | cellAttr => exact ⟨rfl, rfl, rfl⟩
  | cellCode => exact ⟨s.cellCode_vram, s.cellCode_cgrom, s.cellCode_tableBase⟩
  | frame =>
    rw [State.frame_eq]
    exact ⟨rfl, rfl, rfl⟩

end Sys2Proof.Machine

open Sys2Proof.Machine

/-- Settles O38: reads of VRAM and of the CG ROM are functions of the two memories, which exec keeps. -/
theorem operationsOnlyReadVramAndRom : Obligations.OperationsOnlyReadVramAndRom := by
  intro i s t h
  obtain ⟨hvram, hcgrom, _⟩ := exec_keeps_memories h
  exact ⟨vread_congr hvram, fun a => by rw [hcgrom], hvram, hcgrom⟩

/-- Settles O30: FC.CELL_CODE's guard is the range test of the cell, and no other operation has one. -/
theorem onlyAnOutsideCellStops : Obligations.OnlyAnOutsideCellStops :=
  ⟨fun s => (exec_fcCellCode_fault_iff s).trans (not_congr (cellInRange_iff s)), fun _ s => exec_completes s⟩

/-- Settles O24: the two branches of FC.IDLE. -/
theorem fcIdleWaitsForTheTick : Obligations.FcIdleWaitsForTheTick :=
  fun _ => ⟨exec_fcIdle_of_tick, exec_fcIdle_of_no_tick⟩

/-- Settles O25: the slot's address is the obligation's by definition. -/
theorem fcRowHiLatchesTheHighByte : Obligations.FcRowHiLatchesTheHighByte :=
  exec_fcRowHi

/-- Settles O27: the cell's address is the obligation's by definition. -/
theorem fcCellAttrLatchesTheAttribute : Obligations.FcCellAttrLatchesTheAttribute :=
  exec_fcCellAttr

/-- Settles O32: FC.RENDER_FRAME's branch while busy. -/
theorem renderFrameWhileBusyDoesNothing : Obligations.RenderFrameWhileBusyDoesNothing :=
  fun _ => exec_fcRenderFrame_busy

/-- Settles O28: the cell's nine positions and every other one, from the two rules of FC.CELL_CODE's framebuffer; the
ports as the cell's drawing leaves them, the CG address as the number of its fields. -/
theorem fcCellCodeDrawsTheCell : Obligations.FcCellCodeDrawsTheCell := by
  intro s hr hs hc
  obtain ⟨htick, hreads, hcg, hwrite⟩ := s.cellCode_ports
  refine ⟨_, exec_fcCellCode_of_ranges hr hs hc, fun x y hx _ => ⟨?_, fbRead_cellCode_outside s hc hx⟩,
    vread_congr s.cellCode_vram, s.cellCode_vram, s.cellCode_cgrom, s.cellCode_rowStart, s.cellCode_ptrHi,
    s.cellCode_attrL, s.cellCode_tableBase, s.cellCode_inputs, s.cellCode_draws, htick, hreads,
    ⟨_, ?_, hcg⟩, ⟨_, hwrite, ?_, ?_, rfl⟩⟩
  · rintro k rfl rfl
    exact fbRead_cellCode_inside s hc k
  · exact cellNets_cgAddr_toNat _ _ _ _
  · exact burstX_toNat hc
  · exact burstY_toNat hr hs
end

section
/-! SUPPORT. The bits that the datapath takes from the attribute and the code byte (R94, R156, R162), and the
three units run in turn (R185). -/

namespace Sys2Proof.Machine

/-- Toggling bit 5 complements what reverse_video_mux leaves (R156, R162 (c)). -/
theorem reverseMux_toggle (attr p : Byte) : reverseMux (attr ^^^ 0x20#8) p = ~~~reverseMux attr p := by
  have hbit : (attr ^^^ 0x20#8).getLsbD 5 = !attr.getLsbD 5 := by
    rw [BitVec.getLsbD_xor, show (0x20#8).getLsbD 5 = true from rfl, Bool.xor_true]
  rw [reverseMux, reverseMux, hbit]
  cases attr.getLsbD 5
  · rfl
  · exact (BitVec.not_not (b := p)).symm

/-- Bytes equal under a mask are equal under every mask inside it. -/
theorem and_eq_of_and_eq {a b mask inner : Byte} (h : a &&& mask = b &&& mask) (hinner : mask &&& inner = inner) :
    a &&& inner = b &&& inner := by
  rw [← hinner, ← BitVec.and_assoc, h, BitVec.and_assoc]

/-- The glyph index, and so the CG address, has no place for code bit 7 (R91, R94). -/
theorem glyphAddr_toggle_bit7 (code : Byte) (bank : Bool) (scan : BitVec 4) :
    glyphAddr (code ^^^ 0x80#8) (bankOffsetOf bank) scan = glyphAddr code (bankOffsetOf bank) scan := by
  have hglyph : (code ^^^ 0x80#8).extractLsb' 0 7 = code.extractLsb' 0 7 := by
    rw [BitVec.extractLsb'_xor, show (0x80#8).extractLsb' 0 7 = 0#7 from rfl, BitVec.xor_zero]
  rw [glyphAddr_eq, glyphAddr_eq, hglyph]

/-- GR.LOOKUP with attribute bit 0 as its bank (R180, R185). -/
theorem exec_grLookup_fontBank (attr code : Byte) (scan : BitVec 4) (s : State) :
    exec (.grLookup code (attr.extractLsb' 0 1) scan) s = .next (s.glyphLookup code (attr.getLsbD 0) scan) := by
  rw [exec_grLookup, show (attr.extractLsb' 0 1).getLsbD 0 = attr.getLsbD 0 by simp]

end Sys2Proof.Machine

open Sys2Proof.Machine

/-- Settles O15: bit 5 reaches the last stage alone, which it turns into its complement; the foreground is bits 1
and 2, the background is constant. -/
theorem togglingReverseComplementsThePattern : Obligations.TogglingReverseComplementsThePattern := by
  intro attr s
  have h1 : (attr ^^^ 0x20#8).getLsbD 1 = attr.getLsbD 1 := getLsbD_xor_of_clear attr (by decide)
  have h2 : (attr ^^^ 0x20#8).getLsbD 2 = attr.getLsbD 2 := getLsbD_xor_of_clear attr (by decide)
  have h4 : (attr ^^^ 0x20#8).getLsbD 4 = attr.getLsbD 4 := getLsbD_xor_of_clear attr (by decide)
  refine ⟨_, _, exec_apProcess attr s, exec_apProcess _ s, ?_, ?_, rfl⟩
  · rw [State.attrProcess_pattern, State.attrProcess_pattern, underlineOverride_congr _ _ h4, reverseMux_toggle]
  · simp only [State.attrProcess_fg, concealForeground, dimForeground, h1, h2]

/-- Settles O16: AttrProcess reads bits 1, 2, 4 and 5, all of them outside bit 0, and the forced pattern hides the
rest. -/
theorem underlineHidesTheGlyph : Obligations.UnderlineHidesTheGlyph := by
  intro cgrom cgrom' attr attr' code code' h4 h
  exact cellPixels_congr_of_underlined h4 (and_eq_of_and_eq h.symm (by decide)) cgrom cgrom' code code'

/-- Settles O20: the lookup is one read at the glyph address, which is the same for both codes. -/
theorem codeBitSevenIsDiscarded : Obligations.CodeBitSevenIsDiscarded := by
  intro code bank scan s
  rw [exec_grLookup, exec_grLookup, State.glyphLookup, State.glyphLookup, glyphAddr_toggle_bit7]

/-- Settles O22: each unit leaves on the nets what `cellPixels` gives to the next. -/
theorem cellPixelsComposesTheUnits : Obligations.CellPixelsComposesTheUnits := by
  intro attr code s
  exact ⟨_, _, _, exec_grLookup_fontBank attr code s.scan s, exec_apProcess attr _, exec_grExpand _ _, rfl⟩

/-- Settles O36: `vaddr` is the remainder by 0x8000. -/
theorem vReadWrapsModuloTheBuffer : Obligations.VReadWrapsModuloTheBuffer := by
  intro s a
  rw [State.vread, vaddr_toNat]

end

section
/-! SUPPORT. The invariant (R22 to R25, R97): every operation, a host write and a reset keep it, whatever values
the reset draws. -/

namespace Sys2Proof.Machine

/-! ### The five legal codes (R97) -/

theorem fsmIdle_legal : fsmIdle.toNat ≤ 4 := by decide
theorem fsmRowHi_legal : fsmRowHi.toNat ≤ 4 := by decide
theorem fsmRowLo_legal : fsmRowLo.toNat ≤ 4 := by decide
theorem fsmCellAttr_legal : fsmCellAttr.toNat ≤ 4 := by decide
theorem fsmCellCode_legal : fsmCellCode.toNat ≤ 4 := by decide

/-! ### The operations -/

/-- The advance raises a counter only below its last value (R209). -/
theorem inv_advance {s : State} (h : s.Inv) : s.advance.Inv := by
  obtain ⟨hvram, hcgrom, hfb, _, hrow, hscan, hcol⟩ := h
  rcases advance_cases s with ⟨hlt, h⟩ | ⟨_, hlt, h⟩ | ⟨_, _, hlt, h⟩ | ⟨_, _, _, h⟩
  · have hnext : (s.col + 1).toNat ≤ 79 := (toNat_add_one_of_lt hlt (by decide)).trans_le hlt
    rw [h]
    exact ⟨hvram, hcgrom, hfb, fsmCellAttr_legal, hrow, hscan, hnext⟩
  · have hnext : (s.scan + 1).toNat ≤ 12 := (toNat_add_one_of_lt hlt (by decide)).trans_le hlt
    rw [h]
    exact ⟨hvram, hcgrom, hfb, fsmCellAttr_legal, hrow, hnext, Nat.zero_le _⟩
  · have hnext : (s.row + 1).toNat ≤ 26 := (toNat_add_one_of_lt hlt (by decide)).trans_le hlt
    rw [h]
    exact ⟨hvram, hcgrom, hfb, fsmRowHi_legal, hnext, hscan, hcol⟩
  · rw [h]
    exact ⟨hvram, hcgrom, hfb, fsmIdle_legal, hrow, hscan, hcol⟩

/-- The nine pixels of a cell of the frame stand inside the framebuffer (R208). -/
theorem inv_drawCell {s : State} (h : s.Inv) : s.drawCell.Inv := by
  obtain ⟨hvram, hcgrom, hfb, hstate, hrow, hscan, hcol⟩ := h
  exact ⟨hvram, hcgrom, wf_fbCell _ hfb (Nat.lt_succ_of_le hcol) (by omega), hstate, hrow, hscan, hcol⟩

theorem inv_cellCode {s : State} (h : s.Inv) : s.cellCode.Inv :=
  inv_advance (inv_drawCell h)

/-- The last cell's registers are in their ranges (R200). -/
theorem inv_atLastCell {s : State} (h : s.Inv) : s.atLastCell.Inv := by
  obtain ⟨hvram, hcgrom, hfb, _⟩ := h
  exact ⟨hvram, hcgrom, hfb, fsmCellCode_legal, le_refl 26, le_refl 12, le_refl 79⟩

/-- A whole frame ends as its last cell does, with a canonical framebuffer (R200; log entry 13). -/
theorem inv_frame {s : State} (h : s.Inv) : s.frame.Inv := by
  obtain ⟨hvram, hcgrom, _, hrest⟩ := inv_cellCode (inv_atLastCell h)
  obtain ⟨_, _, hfb, _⟩ := h
  exact ⟨hvram, hcgrom, wf_renderFrame hfb, hrest⟩

/-- Every operation keeps the invariant, FC.RENDER_FRAME and the units run alone included. -/
theorem exec_keeps_inv {i : Instr} {s t : State} (hinv : s.Inv) (h : exec i s = .next t) : t.Inv := by
  obtain ⟨hvram, hcgrom, hfb, _, hrow, hscan, hcol⟩ := id hinv
  cases exec_result h with
  | unit => exact hinv
  | idle => exact ⟨hvram, hcgrom, hfb, fsmIdle_legal, hrow, hscan, hcol⟩
  | tick => exact ⟨hvram, hcgrom, hfb, fsmRowHi_legal, Nat.zero_le _, hscan, hcol⟩
  | rowHi => exact ⟨hvram, hcgrom, hfb, fsmRowLo_legal, hrow, hscan, hcol⟩
  | rowLo => exact ⟨hvram, hcgrom, hfb, fsmCellAttr_legal, hrow, Nat.zero_le _, Nat.zero_le _⟩
  | cellAttr => exact ⟨hvram, hcgrom, hfb, fsmCellCode_legal, hrow, hscan, hcol⟩
  | cellCode => exact inv_cellCode hinv
  | frame => exact inv_frame hinv

/-! ### The host's steps -/

/-- A host write stores inside VRAM (R51, R64). -/
theorem inv_hostWrite {s : State} (o : Offset) (b : Byte) (h : s.Inv) : (s.hostWrite o b).Inv := by
  obtain ⟨hvram, hrest⟩ := h
  exact ⟨wf_vramStore o b hvram, hrest⟩

/-- A counter drawn from its range holds a value of its range. -/
theorem toNat_ofNat_lt {n : Nat} (w : Nat) (v : Fin n) (h : n ≤ 2 ^ w) : (BitVec.ofNat w v.val).toNat < n := by
  rw [BitVec.toNat_ofNat, Nat.mod_eq_of_lt (v.isLt.trans_le h)]
  exact v.isLt

/-- A reset draws every counter from its range (R40, R270). -/
theorem assertReset_ranges (s : State) :
    s.assertReset.row.toNat ≤ 26 ∧ s.assertReset.scan.toNat ≤ 12 ∧ s.assertReset.col.toNat ≤ 79 :=
  ⟨Nat.le_of_lt_succ (toNat_ofNat_lt 5 (Config.freeRow s.draws) (by decide)),
    Nat.le_of_lt_succ (toNat_ofNat_lt 4 (Config.freeScan s.draws) (by decide)),
    Nat.le_of_lt_succ (toNat_ofNat_lt 7 (Config.freeCol s.draws) (by decide))⟩

theorem inv_assertReset {s : State} (h : s.Inv) : s.assertReset.Inv := by
  obtain ⟨hvram, hcgrom, _⟩ := h
  exact ⟨hvram, hcgrom, wf_assertReset_fb s, fsmIdle_legal, assertReset_ranges s⟩

/-! ### The kinds of step -/

theorem step_hostWrite {s : State} {o : Offset} {b : Byte} {rest : List Input}
    (h : s.inputs = .hostWrite o b :: rest) : step s = .next ((s.beginStep false rest).hostWrite o b) := by
  rw [step, stepMachine, h]

theorem step_reset {s : State} {rest : List Input} (h : s.inputs = .reset :: rest) :
    step s = .next (s.beginStep false rest).assertReset := by
  rw [step, stepMachine, h]

/-- A step that completes ran an operation, stored the host's byte or asserted reset, on the state at its
start. -/
theorem step_result {s t : State} (h : step s = .next t) :
    (∃ i tick rest, exec i (s.beginStep tick rest) = .next t) ∨
    (∃ o b rest, t = (s.beginStep false rest).hostWrite o b) ∨
    (∃ rest, t = (s.beginStep false rest).assertReset) := by
  rcases step_cases s with
    ⟨tick, _, hstep⟩ | ⟨o, b, rest, _, hstep⟩ | ⟨rest, _, hstep⟩ | ⟨site, rest, _, hstep⟩
  · obtain ⟨i, _, hexec⟩ := operate_next (hstep.symm.trans h)
    exact .inl ⟨i, _, _, hexec⟩
  · cases hstep.symm.trans h
    exact .inr (.inl ⟨o, b, rest, rfl⟩)
  · cases hstep.symm.trans h
    exact .inr (.inr ⟨rest, rfl⟩)
  · obtain ⟨i, _, hexec⟩ := operate_next (hstep.symm.trans h)
    exact .inl ⟨i, _, _, hexec⟩

end Sys2Proof.Machine

open Sys2Proof Sys2Proof.Machine

/-- Settles O40: the start of a step changes ports and inputs only, and each of the three kinds of step keeps the
invariant. -/
theorem everyStepKeepsTheInvariant : Obligations.EveryStepKeepsTheInvariant := by
  intro s t hinv h
  have hbegin : ∀ tick rest, (s.beginStep tick rest).Inv := fun _ _ => hinv
  rcases step_result h with ⟨i, tick, rest, hexec⟩ | ⟨o, b, rest, rfl⟩ | ⟨rest, rfl⟩
  · exact exec_keeps_inv (hbegin tick rest) hexec
  · exact inv_hostWrite o b (hbegin false rest)
  · exact inv_assertReset (hbegin false rest)

/-- Settles O39: operations keep the memories and the strap, a host write is to VRAM alone, and a reset leaves
all three. -/
theorem strapAndRomAreConstant : Obligations.StrapAndRomAreConstant := by
  intro s t h
  rcases step_result h with ⟨i, tick, rest, hexec⟩ | ⟨o, b, rest, rfl⟩ | ⟨rest, rfl⟩
  · obtain ⟨_, hcgrom, hstrap⟩ := exec_keeps_memories hexec
    exact ⟨hstrap, hcgrom⟩
  · exact ⟨rfl, rfl⟩
  · exact ⟨rfl, rfl⟩

/-- Settles O41: the memories of reset are canonical and its counters are 0. -/
theorem invariantHoldsAtReset : Obligations.InvariantHoldsAtReset :=
  ⟨wf_reset_vram, wf_reset_cgrom, wf_reset_fb, by decide, by decide, by decide, by decide⟩

/-- Settles O37: the step is the host's, and a read after it is the rule of `vread_hostWrite`. -/
theorem hostWriteIsSeenByLaterReads : Obligations.HostWriteIsSeenByLaterReads := by
  intro s o b rest h
  exact ⟨_, step_hostWrite h, vread_hostWrite (s.beginStep false rest) o b, rfl⟩

/-- Settles O51: whatever the FSM was doing, reset leaves IDLE with quiet ports and draws counters in range. -/
theorem resetAbandonsTheFrame : Obligations.ResetAbandonsTheFrame := by
  intro s rest h
  exact ⟨_, step_reset h, rfl, rfl, rfl, rfl, rfl, rfl, rfl, assertReset_ranges _⟩

/-- Settles O52: the tabulated CG ROM reads as the parameter at each of its 4096 addresses; empty memories read
as nothing written. -/
theorem resetStateIsTheTable : Obligations.ResetStateIsTheTable := by
  have hcgrom : ∀ a : CgAddr, cgByte State.reset.cgrom a = Config.cgrom a := fun a => by
    have hread := Memory.read_tabulate Config.cgUnlisted Config.cgSize
      (fun n => Config.cgrom (BitVec.ofNat 12 n)) a.toNat
    rw [if_pos a.isLt, BitVec.ofNat_toNat, BitVec.setWidth_eq] at hread
    exact hread
  exact ⟨rfl, rfl, rfl, hcgrom, rfl, rfl, rfl, rfl, rfl, rfl, rfl, fun _ => rfl, fun _ _ => rfl⟩

end

section
/-! SUPPORT. The block's step, forwards: the operation that each FSM state runs, and the same step under another
`frame_tick` (R211) or other datapath values (R29). -/

namespace Sys2Proof.Machine

/-! ### The operation a step runs -/

theorem operate_of_decode_ok {site : Site} {s : State} {i : Instr} (h : decode site (s.wordAt site) = .ok i) :
    operate site s = exec i s := by
  rw [operate, h]

theorem operate_of_decode_error {site : Site} {s : State} {reason : DecodeError}
    (h : decode site (s.wordAt site) = .error reason) : operate site s = .refused (.undecodable reason) := by
  rw [operate, h]

theorem step_operate {s : State} {site : Site} {rest : List Input} (h : s.inputs = .operate site :: rest) :
    step s = operate site (s.beginStep false rest) := by
  rw [step, stepMachine, h]

section
variable {s : State} {tick : Bool} (hblock : s.nextBlockTick = some tick)
include hblock

theorem step_idle (h : s.state = fsmIdle) : step s = exec .fcIdle (s.beginStep tick s.inputs.tail) :=
  (step_block hblock).trans (operate_idle h)

theorem step_rowHi (h : s.state = fsmRowHi) : step s = exec .fcRowHi (s.beginStep tick s.inputs.tail) :=
  (step_block hblock).trans (operate_rowHi h)

theorem step_rowLo (h : s.state = fsmRowLo) : step s = exec .fcRowLo (s.beginStep tick s.inputs.tail) :=
  (step_block hblock).trans (operate_rowLo h)

theorem step_cellAttr (h : s.state = fsmCellAttr) :
    step s = exec .fcCellAttr (s.beginStep tick s.inputs.tail) :=
  (step_block hblock).trans (operate_cellAttr h)

theorem step_cellCode (h : s.state = fsmCellCode) :
    step s = exec .fcCellCode (s.beginStep tick s.inputs.tail) :=
  (step_block hblock).trans (operate_cellCode h)

end

/-- A run's first step. -/
theorem runSteps_of_step {s t : State} {n : Nat} (h : step s = .next t) : runSteps (n + 1) s = runSteps n t := by
  rw [runSteps, h]

/-! ### Another tick, other nets -/

/-- CELL_CODE carries the port `frame_tick` along (R211). -/
theorem cellCode_with_frameTick (s : State) (tick : Bool) :
    ({ s with ports.frameTick := tick } : State).cellCode = { s.cellCode with ports.frameTick := tick } :=
  advance_with_frameTick s.drawCell tick

/-- CELL_CODE computes every datapath value afresh (R29, R208). -/
theorem cellCode_with_nets (s : State) (n : Nets) : ({ s with nets := n } : State).cellCode = s.cellCode :=
  rfl

/-- FC.IDLE reads no net and carries them along (R204). -/
theorem execFcIdle_with_nets {s t : State} (n : Nets) (h : execFcIdle s = .next t) :
    execFcIdle { s with nets := n } = .next { t with nets := n } := by
  cases htick : s.ports.frameTick
  · cases (exec_fcIdle_of_no_tick htick).symm.trans h
    exact exec_fcIdle_of_no_tick (s := { s with nets := n }) htick
  · cases (exec_fcIdle_of_tick htick).symm.trans h
    exact exec_fcIdle_of_tick (s := { s with nets := n }) htick

end Sys2Proof.Machine

open Sys2Proof Sys2Proof.Machine

/-- Settles O35: the word at a site does not change at the start of the step, and `operate` runs what it decodes
to. -/
theorem stepRunsTheDecodedOperation : Obligations.StepRunsTheDecodedOperation := by
  refine ⟨fun s tick i hblock hdecode => ?_, fun s tick reason hblock hdecode => ?_,
    fun s site rest i hinputs hdecode => ?_⟩
  · exact (step_block hblock).trans (operate_of_decode_ok (by rwa [beginStep_wordAt]))
  · exact (step_block hblock).trans (operate_of_decode_error (by rwa [beginStep_wordAt]))
  · exact (step_operate hinputs).trans (operate_of_decode_ok (by rwa [beginStep_wordAt]))

/-- Settles O44: the four busy transitions do not read the port, and each carries it along. -/
theorem tickWhileBusyIsIgnored : Obligations.TickWhileBusyIsIgnored := by
  intro s rest ⟨_, _, _, hstate, hrow, hscan, hcol⟩ hbusy
  rcases fsm_cases hstate with h | h | h | h | h
  · exact absurd h hbusy
  · exact ⟨_, step_rowHi (tick := false) rfl h, step_rowHi (tick := true) rfl h⟩
  · exact ⟨_, step_rowLo (tick := false) rfl h, step_rowLo (tick := true) rfl h⟩
  · exact ⟨_, step_cellAttr (tick := false) rfl h, step_cellAttr (tick := true) rfl h⟩
  · have hstep : ∀ tick,
        step { s with inputs := .block tick :: rest } = .next (s.beginStep tick rest).cellCode := fun tick =>
      (step_cellCode (s := { s with inputs := .block tick :: rest }) rfl h).trans
        (exec_fcCellCode_of_ranges hrow hscan hcol)
    refine ⟨_, hstep false, ?_⟩
    rw [← cellCode_with_frameTick]
    exact hstep true

/-- Settles O50: the first four transitions carry the nets along unread, and CELL_CODE replaces them all. -/
theorem blockStepsIgnoreTheNets : Obligations.BlockStepsIgnoreTheNets := by
  intro s t n tick hblock hstep
  have hblock' : ({ s with nets := n } : State).nextBlockTick = some tick := hblock
  rcases block_cases hblock hstep with ⟨h, hexec⟩ | ⟨h, hexec⟩ | ⟨h, hexec⟩ | ⟨h, hexec⟩ | ⟨h, hrange, rfl⟩
  · exact ⟨_, (step_idle hblock' h).trans (execFcIdle_with_nets n hexec), rfl⟩
  · cases hexec
    exact ⟨_, step_rowHi hblock' h, rfl⟩
  · cases hexec
    exact ⟨_, step_rowLo hblock' h, rfl⟩
  · cases hexec
    exact ⟨_, step_cellAttr hblock' h, rfl⟩
  · exact ⟨_, (step_cellCode hblock' h).trans ((if_pos hrange).trans
      (congrArg _ (cellCode_with_nets (s.beginStep tick s.inputs.tail) n))), rfl⟩

/-- Settles O48: ROW_HI latches the high byte that stood there before the writes; ROW_LO reads the low byte that
the second write left. -/
theorem tornPointerMixesOldAndNew : Obligations.TornPointerMixesOldAndNew := by
  intro s hi lo b1 b2 rest e hstate hinputs
  obtain ⟨s1, h1, hstate1, hslot1, hptr1, hinputs1⟩ : ∃ s1, step s = .next s1 ∧ s1.state = fsmRowLo ∧
      slotAddr s1.tableBase s1.row.toNat = e ∧ s1.ptrHi = s.vread e ∧ s1.inputs = s.inputs.tail :=
    ⟨_, step_rowHi (tick := b1) (by rw [State.nextBlockTick, hinputs]) hstate, rfl, rfl, rfl, rfl⟩
  rw [hinputs, List.tail_cons] at hinputs1
  obtain ⟨s2, h2, hstate2, hslot2, hptr2, hinputs2⟩ : ∃ s2, step s1 = .next s2 ∧ s2.state = fsmRowLo ∧
      slotAddr s2.tableBase s2.row.toNat = e ∧ s2.ptrHi = s.vread e ∧
      s2.inputs = .hostWrite (vaddr (e + 1)) lo :: .block b2 :: rest :=
    ⟨_, step_hostWrite hinputs1, hstate1, hslot1, hptr1, rfl⟩
  obtain ⟨s3, h3, hstate3, hslot3, hptr3, hinputs3, hlow3⟩ : ∃ s3, step s2 = .next s3 ∧ s3.state = fsmRowLo ∧
      slotAddr s3.tableBase s3.row.toNat = e ∧ s3.ptrHi = s.vread e ∧ s3.inputs = .block b2 :: rest ∧
      s3.vread (e + 1) = lo :=
    ⟨_, step_hostWrite hinputs2, hstate2, hslot2, hptr2, rfl, (vread_hostWrite _ _ _ _).trans (if_pos rfl)⟩
  have h4 := step_rowLo (tick := b2) (by rw [State.nextBlockTick, hinputs3]) hstate3
  refine ⟨_, (runSteps_of_step h1).trans ((runSteps_of_step h2).trans ((runSteps_of_step h3).trans
    (runSteps_of_step h4))), rfl, ?_⟩
  change (rowStartOf (rowPointer s3.ptrHi (s3.vread (slotAddr s3.tableBase s3.row.toNat + 1)))).toNat = _
  rw [hslot3, hptr3, hlow3, rowStartOf_toNat, rowPointer_toNat, Nat.mul_comm]

end

section
/-! SUPPORT. What a block step that completes did, field by field: the framebuffer and `row_start` (R56, R134), the
accesses on the ports (R203), `frame_done` (R210), and the count of steps left (R213). -/

namespace Sys2Proof.Machine

/-! ### FC.IDLE -/

/-- FC.IDLE writes `row` and the FSM state only, whatever the tick is (R204). -/
theorem execFcIdle_next {s t : State} (h : execFcIdle s = .next t) :
    t = { s with row := t.row, state := t.state } := by
  cases htick : s.ports.frameTick
  · cases (exec_fcIdle_of_no_tick htick).symm.trans h
    rfl
  · cases (exec_fcIdle_of_tick htick).symm.trans h
    rfl

/-! ### The framebuffer and `row_start` -/

section
variable {s t : State} {tick : Bool} (hblock : s.nextBlockTick = some tick) (hstep : step s = .next t)
include hblock hstep

/-- Of the block's steps only CELL_CODE writes the framebuffer or asserts `frame_done` (R56, R204, R210). -/
theorem block_outside_cellCode (hstate : s.state ≠ fsmCellCode) :
    t.fb = s.fb ∧ t.ports.frameDone = false := by
  rcases block_cases hblock hstep with ⟨_, hexec⟩ | ⟨_, hexec⟩ | ⟨_, hexec⟩ | ⟨_, hexec⟩ | ⟨h, _⟩
  · rw [execFcIdle_next hexec]
    exact ⟨rfl, rfl⟩
  · cases hexec
    exact ⟨rfl, rfl⟩
  · cases hexec
    exact ⟨rfl, rfl⟩
  · cases hexec
    exact ⟨rfl, rfl⟩
  · exact absurd h hstate

/-- Of the block's steps only ROW_LO writes `row_start` (R26, R134). -/
theorem block_keeps_rowStart (hstate : s.state ≠ fsmRowLo) : t.rowStart = s.rowStart := by
  rcases block_cases hblock hstep with ⟨_, hexec⟩ | ⟨_, hexec⟩ | ⟨h, _⟩ | ⟨_, hexec⟩ | ⟨_, _, rfl⟩
  · rw [execFcIdle_next hexec]
    rfl
  · cases hexec
    rfl
  · exact absurd h hstate
  · cases hexec
    rfl
  · exact State.cellCode_rowStart _

/-- In CELL_CODE the step drew the cell under the cursor (R208). -/
theorem block_cellCode (hstate : s.state = fsmCellCode) : t = (s.beginStep tick s.inputs.tail).cellCode :=
  (execFcCellCode_next ((step_cellCode hblock hstate).symm.trans hstep)).2

end

/-- A step of the hardware's that is no reset is the block's or a host write. -/
theorem hardware_step_cases {s t : State} (hhardware : s.hardwareOnly) (hreset : s.inputs.head? ≠ some .reset)
    (h : step s = .next t) :
    (∃ tick, s.nextBlockTick = some tick) ∨ (∃ o b rest, t = (s.beginStep false rest).hostWrite o b) := by
  rcases step_cases s with
    ⟨tick, hblock, _⟩ | ⟨o, b, rest, _, hstep⟩ | ⟨rest, hinputs, _⟩ | ⟨site, rest, hinputs, _⟩
  · exact .inl ⟨tick, hblock⟩
  · cases hstep.symm.trans h
    exact .inr ⟨o, b, rest, rfl⟩
  · exact absurd (by rw [hinputs, List.head?_cons]) hreset
  · exact absurd hinputs (inputs_ne_operate hhardware site rest)

/-! ### The accesses on the ports -/

/-- The accesses that a step may show on its ports, by the FSM state it started in (R203; the spec's D1). -/
def AccessesOf (state : BitVec 3) (ports : Ports) : Prop :=
  ports.vramReads.length ≤ 1 ∧
  (ports.cgRead.isSome = true ↔ state = 0b100#3) ∧
  (ports.fbWrite.isSome = true ↔ state = 0b100#3) ∧
  (ports.vramReads = [] ↔ state = 0b000#3)

theorem accesses_idle (tick : Bool) : AccessesOf fsmIdle (Ports.quiet tick) :=
  ⟨Nat.zero_le 1, iff_of_false Bool.false_ne_true (by decide), iff_of_false Bool.false_ne_true (by decide),
    iff_of_true rfl rfl⟩

/-- A state that is neither IDLE nor CELL_CODE makes its one VRAM read and no other access. -/
theorem accesses_of_read {state : BitVec 3} (tick : Bool) (read : Offset × Byte) (hidle : state ≠ fsmIdle)
    (hcell : state ≠ fsmCellCode) : AccessesOf state { Ports.quiet tick with vramReads := [read] } :=
  ⟨le_refl 1, iff_of_false Bool.false_ne_true hcell, iff_of_false Bool.false_ne_true hcell,
    iff_of_false (List.cons_ne_nil read []) hidle⟩

/-- CELL_CODE makes one VRAM read, one CG ROM read and one framebuffer write (R208, D14). -/
theorem accesses_cellCode {s : State} (h : s.ports.vramReads = []) :
    AccessesOf fsmCellCode s.cellCode.ports := by
  obtain ⟨_, hreads, hcg, hwrite⟩ := s.cellCode_ports
  rw [AccessesOf, hreads, hcg, hwrite, State.drawCell, h]
  exact ⟨le_refl 1, iff_of_true rfl rfl, iff_of_true rfl rfl,
    iff_of_false (List.cons_ne_nil _ []) (by decide)⟩

/-! ### `frame_done` -/

/-- CELL_CODE of a cell of the frame asserts `frame_done` exactly on the last one (R210). -/
theorem cellCode_frameDone_iff {s : State} (hrow : s.row.toNat ≤ 26) (hscan : s.scan.toNat ≤ 12)
    (hcol : s.col.toNat ≤ 79) (hdone : s.ports.frameDone = false) :
    s.cellCode.ports.frameDone = true ↔ s.row = 26#5 ∧ s.scan = 12#4 ∧ s.col = 79#7 := by
  constructor
  · intro h
    rw [State.cellCode, advance_ports, State.drawCell_row, State.drawCell_scan, State.drawCell_col] at h
    split at h
    case isTrue =>
      rw [State.drawCell_frameDone, hdone] at h
      cases h
    case isFalse hlast =>
      exact ⟨BitVec.eq_of_toNat_eq (show s.row.toNat = 26 by omega),
        BitVec.eq_of_toNat_eq (show s.scan.toNat = 12 by omega),
        BitVec.eq_of_toNat_eq (show s.col.toNat = 79 by omega)⟩
  · rintro ⟨hr, hs, hc⟩
    rw [cellCode_of_last hr hs hc]

/-! ### The steps left -/

theorem stepsLeft_rowHi {s : State} (h : s.state = fsmRowHi) : s.stepsLeft = 2082 * (27 - s.row.toNat) := by
  rw [State.stepsLeft, h]
  rfl

theorem stepsLeft_rowLo {s : State} (h : s.state = fsmRowLo) :
    s.stepsLeft = 2082 * (27 - s.row.toNat) - 1 := by
  rw [State.stepsLeft, h]
  rfl

theorem stepsLeft_cellAttr {s : State} (h : s.state = fsmCellAttr) :
    s.stepsLeft = 2082 * (27 - s.row.toNat) - 2 - 2 * (80 * s.scan.toNat + s.col.toNat) := by
  rw [State.stepsLeft, h]
  rfl

theorem stepsLeft_cellCode {s : State} (h : s.state = fsmCellCode) :
    s.stepsLeft = 2082 * (27 - s.row.toNat) - 3 - 2 * (80 * s.scan.toNat + s.col.toNat) := by
  rw [State.stepsLeft, h]
  rfl

theorem stepsLeft_idle {s : State} (h : s.state = fsmIdle) : s.stepsLeft = 0 := by
  rw [State.stepsLeft, h]
  rfl

/-- The advance goes to the next cell, scanline or row, one step on in the count (R209, R213). -/
theorem stepsLeft_advance {s : State} (hstate : s.state = fsmCellCode) (hrow : s.row.toNat ≤ 26)
    (hscan : s.scan.toNat ≤ 12) (hcol : s.col.toNat ≤ 79) : s.advance.stepsLeft + 1 = s.stepsLeft := by
  rw [stepsLeft_cellCode hstate]
  rcases advance_cases s with ⟨hlt, h⟩ | ⟨_, hlt, h⟩ | ⟨_, _, hlt, h⟩ | ⟨_, _, _, h⟩
  · have hnext : (s.col + 1).toNat = s.col.toNat + 1 := toNat_add_one_of_lt hlt (by decide)
    rw [h, stepsLeft_cellAttr rfl]
    dsimp only
    rw [hnext]
    omega
  · have hnext : (s.scan + 1).toNat = s.scan.toNat + 1 := toNat_add_one_of_lt hlt (by decide)
    have hzero : (0 : BitVec 7).toNat = 0 := rfl
    rw [h, stepsLeft_cellAttr rfl]
    dsimp only
    rw [hnext, hzero]
    omega
  · have hnext : (s.row + 1).toNat = s.row.toNat + 1 := toNat_add_one_of_lt hlt (by decide)
    rw [h, stepsLeft_rowHi rfl, hnext]
    omega
  · rw [h, stepsLeft_idle rfl]
    omega

/-- A tick in IDLE starts the 27 rows of a frame; without one the block stays (R204, R213). -/
theorem execFcIdle_starts {s t : State} (h : execFcIdle s = .next t) :
    (s.ports.frameTick = true → t.stepsLeft = 56214) ∧ (s.ports.frameTick = false → t.state = fsmIdle) := by
  refine ⟨fun htick => ?_, fun htick => ?_⟩
  · cases (exec_fcIdle_of_tick htick).symm.trans h
    rw [stepsLeft_rowHi rfl]
    rfl
  · cases (exec_fcIdle_of_no_tick htick).symm.trans h
    rfl

/-- From a busy state a block step is one step closer to `frame_done` (R213, R216). -/
theorem block_counts_down {s t : State} {tick : Bool} (hinv : s.Inv) (hblock : s.nextBlockTick = some tick)
    (hstep : step s = .next t) (hbusy : s.state ≠ fsmIdle) : t.stepsLeft + 1 = s.stepsLeft := by
  obtain ⟨_, _, _, _, hrow, hscan, hcol⟩ := hinv
  rcases block_cases hblock hstep with ⟨h, _⟩ | ⟨h, hexec⟩ | ⟨h, hexec⟩ | ⟨h, hexec⟩ | ⟨h, _, rfl⟩
  · exact absurd h hbusy
  · cases hexec
    rw [stepsLeft_rowLo rfl, stepsLeft_rowHi h]
    change 2082 * (27 - s.row.toNat) - 1 + 1 = _
    omega
  · cases hexec
    rw [stepsLeft_cellAttr rfl, stepsLeft_rowLo h]
    change 2082 * (27 - s.row.toNat) - 2 - 2 * (80 * 0 + 0) + 1 = _
    omega
  · cases hexec
    rw [stepsLeft_cellCode rfl, stepsLeft_cellAttr h]
    change 2082 * (27 - s.row.toNat) - 3 - 2 * (80 * s.scan.toNat + s.col.toNat) + 1 = _
    omega
  · exact stepsLeft_advance (s := (s.beginStep tick s.inputs.tail).drawCell) h hrow hscan hcol

end Sys2Proof.Machine

open Sys2Proof Sys2Proof.Machine

/-- Settles O43: the busy states count down; FC.IDLE starts the count or stays. -/
theorem everyBlockStepCountsDown : Obligations.EveryBlockStepCountsDown := by
  intro s t tick hinv hblock hstep
  refine ⟨block_counts_down hinv hblock hstep, fun hidle htick => ?_, fun hidle htick => ?_⟩
  · exact (execFcIdle_starts ((step_idle hblock hidle).symm.trans hstep)).1 htick
  · exact (execFcIdle_starts ((step_idle hblock hidle).symm.trans hstep)).2 htick

/-- Settles O45: the ports start a step low, so `frame_done` is the advance's, on the last cell, which ends in
IDLE. -/
theorem frameDoneMarksTheLastCell : Obligations.FrameDoneMarksTheLastCell := by
  refine ⟨busy_iff, fun s t tick hinv hblock hstep => ?_⟩
  obtain ⟨_, _, _, _, hrow, hscan, hcol⟩ := hinv
  by_cases hstate : s.state = fsmCellCode
  · have hiff : t.ports.frameDone = true ↔ s.row = 26#5 ∧ s.scan = 12#4 ∧ s.col = 79#7 := by
      rw [block_cellCode hblock hstep hstate]
      exact cellCode_frameDone_iff (s := s.beginStep tick s.inputs.tail) hrow hscan hcol rfl
    refine ⟨hiff.trans (and_iff_right hstate).symm, fun hdone => ?_⟩
    obtain ⟨hr, hs, hc⟩ := hiff.1 hdone
    rw [block_cellCode hblock hstep hstate, cellCode_of_last (s := s.beginStep tick s.inputs.tail) hr hs hc]
    exact ⟨rfl, rfl⟩
  · rw [(block_outside_cellCode hblock hstep hstate).2]
    exact ⟨iff_of_false Bool.false_ne_true fun h => hstate h.1, fun h => absurd h Bool.false_ne_true⟩

/-- Settles O46: a host write does not reach the framebuffer, and of the block's steps only CELL_CODE does. -/
theorem onlyCellCodeWritesTheFramebuffer : Obligations.OnlyCellCodeWritesTheFramebuffer := by
  intro s t hhardware hreset hnot hstep
  rcases hardware_step_cases hhardware hreset hstep with ⟨tick, hblock⟩ | ⟨o, b, rest, rfl⟩
  · have hstate : s.state ≠ fsmCellCode := fun h =>
      hnot ⟨by rw [hblock]; exact Option.some_ne_none tick, h⟩
    exact (block_outside_cellCode hblock hstep hstate).1
  · rfl

/-- Settles O47: a host write does not reach `row_start`, and of the block's steps only ROW_LO does. -/
theorem rowStartChangesOnlyInRowLo : Obligations.RowStartChangesOnlyInRowLo := by
  intro s t hhardware hreset hnot hstep
  rcases hardware_step_cases hhardware hreset hstep with ⟨tick, hblock⟩ | ⟨o, b, rest, rfl⟩
  · exact block_keeps_rowStart hblock hstep fun hstate =>
      hnot ⟨by rw [hblock]; exact Option.some_ne_none tick, hstate⟩
  · rfl

/-- Settles O49, by the five transitions: the ports start a step quiet, and each adds its own accesses. -/
theorem blockStepMakesAtMostOneVramRead : Obligations.BlockStepMakesAtMostOneVramRead := by
  intro s t tick hblock hstep
  change AccessesOf s.state t.ports
  rcases block_cases hblock hstep with ⟨h, hexec⟩ | ⟨h, hexec⟩ | ⟨h, hexec⟩ | ⟨h, hexec⟩ | ⟨h, _, rfl⟩
  · rw [h, execFcIdle_next hexec]
    exact accesses_idle tick
  · cases hexec
    exact accesses_of_read tick _ (by rw [h]; decide) (by rw [h]; decide)
  · cases hexec
    exact accesses_of_read tick _ (by rw [h]; decide) (by rw [h]; decide)
  · cases hexec
    exact accesses_of_read tick _ (by rw [h]; decide) (by rw [h]; decide)
  · rw [h]
    exact accesses_cellCode rfl

/-- Settles O53: only CELL_CODE changes the framebuffer, and of its positions only the cell's nine. -/
theorem hostReadChangesAtItsCellCode : Obligations.HostReadChangesAtItsCellCode := by
  intro s t tick x y ⟨_, _, _, _, hrow, hscan, hcol⟩ hblock hstep hchange
  have hinside : x < 720 ∧ y < 351 := by
    by_contra hout
    exact hchange ((if_neg hout).trans (if_neg hout).symm)
  have hread : ∀ u : State, u.hostReadFb x y = some (fbRead u.fb x y) := fun u => if_pos hinside
  rw [hread, hread] at hchange
  have hstate : s.state = fsmCellCode := by
    by_contra hne
    exact hchange (by rw [(block_outside_cellCode hblock hstep hne).1])
  rw [hread, block_cellCode hblock hstep hstate]
  rw [block_cellCode hblock hstep hstate] at hchange
  have hcell : y = 13 * s.row.toNat + s.scan.toNat ∧ 9 * s.col.toNat ≤ x ∧ x < 9 * s.col.toNat + 9 := by
    by_contra hout
    exact hchange (congrArg some
      (fbRead_cellCode_outside (s.beginStep tick s.inputs.tail) hcol hinside.1 hout))
  obtain ⟨rfl, hle, hlt⟩ := hcell
  obtain ⟨k, rfl⟩ := Nat.exists_eq_add_of_le hle
  exact ⟨⟨k, by omega⟩, hstate, rfl, rfl,
    congrArg some (fbRead_cellCode_inside (s.beginStep tick s.inputs.tail) hcol ⟨k, by omega⟩)⟩

end

section
/-! SUPPORT. The frame (R200, R212, R213): the pixels that FC.RENDER_FRAME leaves, and the FSM's run over the same
loop nest, one lemma for each level: a cell takes 2 steps, a scanline 160, a text row 2082. Each level leaves in
the framebuffer exactly what the level of RenderFrame writes, so the two framebuffers are the same list. -/

namespace Sys2Proof.Machine

/-! ### The pixels of a frame by cell -/

/-- Pixel k of column c on scanline sc of row r (R200, R202). -/
theorem framePixel_cell (s : State) (r c : Nat) {sc : Nat} (hsc : sc < 13) (k : Fin 9) :
    s.framePixel (9 * c + k.val) (13 * r + sc) =
      (cellPixels s.cgrom (s.vread (cellAddr (s.resolve r) c)) (s.vread (cellAddr (s.resolve r) c + 1))
        (BitVec.ofNat 4 sc))[k] := by
  have hrow : (13 * r + sc) / 13 = r := by omega
  have hscan : (13 * r + sc) % 13 = sc := by omega
  have hcol : (9 * c + k.val) / 9 = c := by omega
  have hpixel : (9 * c + k.val) % 9 = k.val := by omega
  simp only [State.framePixel, State.scanPixel, hrow, hscan, hcol, hpixel, Fin.getElem_fin]

/-! ### Runs that end in a kind of state -/

/-- `n` steps from `t` complete and end in a state of the kind `P`. -/
def Reaches (n : Nat) (t : State) (P : State → Prop) : Prop :=
  ∃ u, runSteps n t = .next u ∧ P u

theorem Reaches.of_step {t u : State} {P : State → Prop} (h : step t = .next u) (hP : P u) : Reaches 1 t P :=
  ⟨u, runSteps_of_step h, hP⟩

theorem Reaches.trans {m n : Nat} {t : State} {P Q : State → Prop} (h : Reaches m t P)
    (hnext : ∀ u, P u → Reaches n u Q) : Reaches (m + n) t Q := by
  obtain ⟨u, hrun, hP⟩ := h
  obtain ⟨v, hrun', hQ⟩ := hnext u hP
  exact ⟨v, (runSteps_add hrun).trans hrun', hQ⟩

theorem Reaches.mono {n : Nat} {t : State} {P Q : State → Prop} (h : Reaches n t P) (hPQ : ∀ u, P u → Q u) :
    Reaches n t Q := by
  obtain ⟨u, hrun, hP⟩ := h
  exact ⟨u, hrun, hPQ u hP⟩

/-- A loop of `n` rounds of `k` steps each. -/
theorem Reaches.iterate {P : Nat → State → Prop} {k : Nat} {t : State} (n : Nat) (h0 : P 0 t)
    (hround : ∀ i < n, ∀ u, P i u → Reaches k u (P (i + 1))) : Reaches (n * k) t (P n) := by
  induction n with
  | zero => exact ⟨t, by rw [Nat.zero_mul, runSteps], h0⟩
  | succ n ih =>
    rw [Nat.succ_mul]
    exact (ih fun i hi => hround i (Nat.lt_succ_of_lt hi)).trans (hround n n.lt_succ_self)

/-- A loop over a range, one round more. -/
theorem foldl_range_succ {α : Type} (f : α → Nat → α) (a : α) (n : Nat) :
    (List.range (n + 1)).foldl f a = f ((List.range n).foldl f a) n := by
  rw [List.range_succ, List.foldl_append, List.foldl_cons, List.foldl_nil]

/-! ### The states of a frame's run -/

/-- A state of the run of the frame that `s` starts, in text row r: VRAM, CG ROM and strap are those of `s`, only
block steps are to come, and the framebuffer is `fb`. -/
structure InFrame (s : State) (r : Nat) (fb : List (Nat × Pixel)) (t : State) : Prop where
  vram : t.vram = s.vram
  cgrom : t.cgrom = s.cgrom
  tableBase : t.tableBase = s.tableBase
  blocks : ∀ i ∈ t.inputs, ∃ tick, i = Input.block tick
  row : t.row.toNat = r
  fb : t.fb = fb

/-- At the start of a row: in ROW_HI (R205). -/
structure AtRow (s : State) (r : Nat) (fb : List (Nat × Pixel)) (t : State) : Prop extends InFrame s r fb t where
  state : t.state = fsmRowHi

/-- In ROW_LO, with the row's high byte latched (R206). -/
structure AtRowLo (s : State) (r : Nat) (fb : List (Nat × Pixel)) (t : State) : Prop extends InFrame s r fb t where
  state : t.state = fsmRowLo
  ptrHi : t.ptrHi = s.vread (slotAddr s.tableBase r)

/-- At a cell, in CELL_ATTR or CELL_CODE as `code` says, with the row resolved (R206, R207). -/
structure AtCell (s : State) (code : BitVec 3) (r sc c : Nat) (fb : List (Nat × Pixel)) (t : State) : Prop
    extends InFrame s r fb t where
  state : t.state = code
  scan : t.scan.toNat = sc
  col : t.col.toNat = c
  rowStart : t.rowStart = s.resolve r
  ptrHi : t.ptrHi = s.vread (slotAddr s.tableBase r)

/-- Just after CELL_CODE of a cell, whose drawing left `fb`. -/
def Drawn (s : State) (r sc c : Nat) (fb : List (Nat × Pixel)) (u : State) : Prop :=
  ∃ t fb', AtCell s fsmCellCode r sc c fb' t ∧ t.attrL = s.vread (cellAddr (s.resolve r) c) ∧
    s.renderCell (s.resolve r) r sc fb' c = fb ∧ u = t.cellCode

/-! ### One step -/

theorem InFrame.nextBlockTick {s t : State} {r : Nat} {fb : List (Nat × Pixel)} (h : InFrame s r fb t) :
    ∃ tick, t.nextBlockTick = some tick := by
  cases hinputs : t.inputs with
  | nil => exact ⟨false, by rw [State.nextBlockTick, hinputs]⟩
  | cons i rest =>
    obtain ⟨tick, rfl⟩ := h.blocks i (by rw [hinputs]; exact List.mem_cons_self)
    exact ⟨tick, by rw [State.nextBlockTick, hinputs]⟩

theorem InFrame.beginStep {s t : State} {r : Nat} {fb : List (Nat × Pixel)} (h : InFrame s r fb t) (tick : Bool) :
    InFrame s r fb (t.beginStep tick t.inputs.tail) :=
  { h with blocks := fun i hi => h.blocks i (List.mem_of_mem_tail hi) }

theorem InFrame.vread {s t : State} {r : Nat} {fb : List (Nat × Pixel)} (h : InFrame s r fb t) (a : Int) :
    t.vread a = s.vread a :=
  vread_congr h.vram a

/-- ROW_HI latches the high byte of the row's slot (R205). -/
theorem AtRow.reaches_rowLo {s t : State} {r : Nat} {fb : List (Nat × Pixel)} (h : AtRow s r fb t) :
    Reaches 1 t (AtRowLo s r fb) := by
  obtain ⟨tick, hblock⟩ := h.nextBlockTick
  refine .of_step (step_rowHi hblock h.state) { h.beginStep tick with state := rfl, ptrHi := ?_ }
  rw [← h.tableBase, ← h.row]
  exact h.vread _

/-- ROW_LO resolves the row and goes to its first cell (R206). -/
theorem AtRowLo.reaches_firstCell {s t : State} {r : Nat} {fb : List (Nat × Pixel)} (h : AtRowLo s r fb t) :
    Reaches 1 t (AtCell s fsmCellAttr r 0 0 fb) := by
  obtain ⟨tick, hblock⟩ := h.nextBlockTick
  have hstart : rowStartOf (rowPointer t.ptrHi (t.vread (slotAddr t.tableBase t.row.toNat + 1))) =
      s.resolve r := by
    rw [h.ptrHi, h.tableBase, h.row, h.vread, State.resolve]
  exact .of_step (step_rowLo hblock h.state)
    { h.beginStep tick with state := rfl, scan := rfl, col := rfl, rowStart := hstart, ptrHi := h.ptrHi }

section
variable {s t : State} {r sc c : Nat} {fb : List (Nat × Pixel)}

/-- CELL_ATTR latches the cell's attribute byte, and CELL_CODE draws the cell (R207, R208). -/
theorem AtCell.reaches_drawn (h : AtCell s fsmCellAttr r sc c fb t) (hr : r ≤ 26) (hsc : sc ≤ 12)
    (hc : c ≤ 79) : Reaches 2 t (Drawn s r sc c (s.renderCell (s.resolve r) r sc fb c)) := by
  obtain ⟨tick, hblock⟩ := h.nextBlockTick
  have hattr : t.vread (cellAddr t.rowStart t.col.toNat) = s.vread (cellAddr (s.resolve r) c) := by
    rw [h.rowStart, h.col, h.vread]
  obtain ⟨u, hstep, hu, huattr⟩ : ∃ u, step t = .next u ∧ AtCell s fsmCellCode r sc c fb u ∧
      u.attrL = s.vread (cellAddr (s.resolve r) c) :=
    ⟨_, step_cellAttr hblock h.state, { h with toInFrame := { h.beginStep tick with }, state := rfl }, hattr⟩
  obtain ⟨tick', hblock'⟩ := hu.nextBlockTick
  have hexec : step u = .next (u.beginStep tick' u.inputs.tail).cellCode :=
    (step_cellCode hblock' hu.state).trans
      (exec_fcCellCode_of_ranges (hu.row.trans_le hr) (hu.scan.trans_le hsc) (hu.col.trans_le hc))
  exact ⟨_, (runSteps_of_step hstep).trans (runSteps_of_step hexec), _, fb,
    { hu with toInFrame := hu.beginStep tick' }, huattr, rfl, rfl⟩

/-! ### After a cell -/

/-- What CELL_CODE leaves of the frame's run, whatever the cursor does next (R208). -/
theorem Drawn.inFrame (h : Drawn s r sc c fb t) : InFrame s t.row.toNat fb t := by
  obtain ⟨v, fb', hv, hattr, rfl, rfl⟩ := h
  refine ⟨v.cellCode_vram.trans hv.vram, v.cellCode_cgrom.trans hv.cgrom,
    v.cellCode_tableBase.trans hv.tableBase, ?_, rfl, ?_⟩
  · rw [v.cellCode_inputs]
    exact hv.blocks
  · rw [cellCode_fb, State.renderCell, hv.fb, hv.row, hv.scan, hv.col, hv.rowStart, hv.cgrom, hattr, hv.vread,
      ← hv.scan, BitVec.ofNat_toNat, BitVec.setWidth_eq]

/-- The cursor after a cell (R209). -/
theorem Drawn.cursor (h : Drawn s r sc c fb t) :
    (t.state.toNat, t.row.toNat, t.scan.toNat, t.col.toNat) =
      if c < 79 then (3, r, sc, c + 1) else if sc < 12 then (3, r, sc + 1, 0)
      else if r < 26 then (1, r + 1, sc, c) else (0, r, sc, c) := by
  obtain ⟨v, fb', hv, _, _, rfl⟩ := h
  have hcursor := advance_cursor v.drawCell
  rw [State.drawCell_row, State.drawCell_scan, State.drawCell_col, hv.row, hv.scan, hv.col] at hcursor
  have hfour := congrArg (fun p => (p.1, p.2.1, p.2.2.1, p.2.2.2.1)) hcursor
  simpa only [State.cellCode,
    apply_ite (fun p : Nat × Nat × Nat × Nat × Bool => (p.1, p.2.1, p.2.2.1, p.2.2.2.1))] using hfour

/-- The row stays resolved, its pointer latched (R134, R209). -/
theorem Drawn.rowStart_ptrHi (h : Drawn s r sc c fb t) :
    t.rowStart = s.resolve r ∧ t.ptrHi = s.vread (slotAddr s.tableBase r) := by
  obtain ⟨v, _, hv, _, _, rfl⟩ := h
  exact ⟨v.cellCode_rowStart.trans hv.rowStart, v.cellCode_ptrHi.trans hv.ptrHi⟩

/-- A cursor that stays in the row stands at a cell of it, to be read next (R209). -/
theorem Drawn.atCell {sc' c' : Nat} (h : Drawn s r sc c fb t)
    (hcursor : (t.state.toNat, t.row.toNat, t.scan.toNat, t.col.toNat) = (3, r, sc', c')) :
    AtCell s fsmCellAttr r sc' c' fb t := by
  simp only [Prod.mk.injEq] at hcursor
  obtain ⟨hstate, hrow, hscan, hcol⟩ := hcursor
  obtain ⟨hstart, hptr⟩ := h.rowStart_ptrHi
  exact { h.inFrame with
    row := hrow
    state := BitVec.eq_of_toNat_eq hstate
    scan := hscan
    col := hcol
    rowStart := hstart
    ptrHi := hptr }

theorem Drawn.next_column (h : Drawn s r sc c fb t) (hc : c < 79) : AtCell s fsmCellAttr r sc (c + 1) fb t :=
  h.atCell (h.cursor.trans (if_pos hc))

theorem Drawn.next_scanline (h : Drawn s r sc 79 fb t) (hsc : sc < 12) :
    AtCell s fsmCellAttr r (sc + 1) 0 fb t :=
  h.atCell (h.cursor.trans ((if_neg (lt_irrefl 79)).trans (if_pos hsc)))

theorem Drawn.next_row (h : Drawn s r 12 79 fb t) (hr : r < 26) : AtRow s (r + 1) fb t := by
  have hcursor := h.cursor
  rw [if_neg (lt_irrefl 79), if_neg (lt_irrefl 12), if_pos hr] at hcursor
  simp only [Prod.mk.injEq] at hcursor
  obtain ⟨hstate, hrow, _⟩ := hcursor
  exact { h.inFrame with row := hrow, state := BitVec.eq_of_toNat_eq hstate }

/-! ### The loop nest -/

/-- A scanline, from its first cell: 80 cells of 2 steps (R213). -/
theorem AtCell.reaches_scanline_drawn (h : AtCell s fsmCellAttr r sc 0 fb t) (hr : r ≤ 26) (hsc : sc ≤ 12) :
    Reaches 160 t (Drawn s r sc 79 (s.renderScan (s.resolve r) r fb sc)) := by
  rw [State.renderScan, foldl_range_succ]
  have hcells : Reaches (79 * 2) t (AtCell s fsmCellAttr r sc 79 _) :=
    Reaches.iterate (P := fun c => AtCell s fsmCellAttr r sc c
      ((List.range c).foldl (s.renderCell (s.resolve r) r sc) fb)) 79 h fun c hc u hu => by
        rw [foldl_range_succ]
        exact (hu.reaches_drawn hr hsc hc.le).mono fun v hv => hv.next_column hc
  exact hcells.trans fun u hu => hu.reaches_drawn hr hsc (le_refl 79)

/-- A text row, from ROW_HI: 2 pointer steps and 13 scanlines (R213). -/
theorem AtRow.reaches_row_drawn (h : AtRow s r fb t) (hr : r ≤ 26) :
    Reaches 2082 t (Drawn s r 12 79 (s.renderRow fb r)) := by
  rw [State.renderRow, foldl_range_succ]
  refine (h.reaches_rowLo.trans fun u hu => hu.reaches_firstCell).trans (n := 2080) fun u hu => ?_
  have hscanlines : Reaches (12 * 160) u (AtCell s fsmCellAttr r 12 0 _) :=
    Reaches.iterate (P := fun sc => AtCell s fsmCellAttr r sc 0
      ((List.range sc).foldl (s.renderScan (s.resolve r) r) fb)) 12 hu fun sc hsc v hv => by
        rw [foldl_range_succ]
        exact (hv.reaches_scanline_drawn hr hsc.le).mono fun w hw => hw.next_scanline hsc
  exact hscanlines.trans fun v hv => hv.reaches_scanline_drawn hr (le_refl 12)

/-- A frame, from ROW_HI of its first row: 27 rows (R213). -/
theorem AtRow.reaches_frame_drawn (h : AtRow s 0 s.fb t) :
    Reaches 56214 t (Drawn s 26 12 79 s.renderFrame) := by
  rw [State.renderFrame, foldl_range_succ]
  have hrows : Reaches (26 * 2082) t (AtRow s 26 _) :=
    Reaches.iterate (P := fun r => AtRow s r ((List.range r).foldl s.renderRow s.fb)) 26 h fun r hr u hu => by
      rw [foldl_range_succ]
      exact (hu.reaches_row_drawn hr.le).mono fun v hv => hv.next_row hr
  exact hrows.trans fun u hu => hu.reaches_row_drawn (le_refl 26)

/-- A tick in IDLE with block steps to come starts the frame (R204). -/
theorem reaches_frame_of_tick {rest : List Input} (hidle : s.state = fsmIdle)
    (hinputs : s.inputs = .block true :: rest) (hrest : ∀ i ∈ rest, ∃ tick, i = Input.block tick) :
    Reaches 56215 s (Drawn s 26 12 79 s.renderFrame) := by
  have hstep : step s = .next { s.beginStep true s.inputs.tail with row := 0, state := fsmRowHi } :=
    (step_idle (by rw [State.nextBlockTick, hinputs]) hidle).trans (exec_fcIdle_of_tick rfl)
  refine (Reaches.of_step (P := AtRow s 0 s.fb) hstep ?_).trans fun u hu => hu.reaches_frame_drawn
  have hblocks : ∀ i ∈ s.inputs.tail, ∃ tick, i = Input.block tick := by rwa [hinputs, List.tail_cons]
  exact { vram := rfl, cgrom := rfl, tableBase := rfl, blocks := hblocks, row := rfl, fb := rfl, state := rfl }

/-! ### The end of the frame -/

/-- After its last cell a frame stands as FC.RENDER_FRAME leaves it, with `frame_done` (R210, R212; log entries 7
and 13). -/
theorem Drawn.eq_frame (h : Drawn s 26 12 79 s.renderFrame t) :
    t.fb = s.frame.fb ∧ t.state = s.frame.state ∧ t.row = s.frame.row ∧ t.scan = s.frame.scan ∧
    t.col = s.frame.col ∧ t.rowStart = s.frame.rowStart ∧ t.ptrHi = s.frame.ptrHi ∧ t.attrL = s.frame.attrL ∧
    t.nets = s.frame.nets ∧ t.vram = s.frame.vram ∧ t.ports.frameDone = true := by
  have hfb : t.fb = s.renderFrame := h.inFrame.fb
  obtain ⟨v, _, hv, hattr, _, rfl⟩ := h
  have hrow : v.row = 26 := BitVec.eq_of_toNat_eq hv.row
  have hscan : v.scan = 12 := BitVec.eq_of_toNat_eq hv.scan
  have hcol : v.col = 79 := BitVec.eq_of_toNat_eq hv.col
  have hnets : v.drawCell.nets = s.atLastCell.drawCell.nets := by
    rw [State.drawCell_nets, State.drawCell_nets, hv.cgrom, hattr, hv.vread, hv.rowStart, hcol, hscan]
    rfl
  rw [cellCode_of_last hrow hscan hcol] at hfb ⊢
  rw [State.frame_eq]
  exact ⟨hfb, rfl, hrow, hscan, hcol, hv.rowStart, hv.ptrHi, hattr, hnets, hv.vram, rfl⟩

end

end Sys2Proof.Machine

open Sys2Proof Sys2Proof.Machine

/-- Settles O31: RenderFrame's pixel at each position is the pixel of the cell that the position lies in. -/
theorem renderFrameDrawsEveryCell : Obligations.RenderFrameDrawsEveryCell := by
  intro s hidle
  refine ⟨s.frame, exec_fcRenderFrame_idle hidle, fun r sc c k hr hsc hc => ?_, ?_⟩
  · have hk := k.isLt
    rw [State.frame_fb, fbRead_renderFrame s (by omega) (by omega), framePixel_cell s r c (by omega) k]
    rfl
  · rw [State.frame_eq]
    exact ⟨rfl, rfl, rfl, rfl, rfl, rfl⟩

/-- Settles O34: the FSM's 56,215 steps write the cells of RenderFrame in its order, and its last cell is the step
that FC.RENDER_FRAME ends with. -/
theorem fsmFrameEqualsRenderFrame : Obligations.FsmFrameEqualsRenderFrame := by
  intro s rest hidle hinputs hrest
  obtain ⟨t, hrun, hdrawn⟩ := reaches_frame_of_tick hidle hinputs hrest
  exact ⟨t, s.frame, hrun, exec_fcRenderFrame_idle hidle, hdrawn.eq_frame⟩

end
